-- ==== Sys2Proof/Word.lean ====
section
/-! DEFINITION. The two widths of data in CORE (R5, R8): every value is an unsigned bit vector. -/

namespace Sys2Proof

/-- A 32-bit unsigned word (R5, R7, R8). -/
abbrev Word := BitVec 32

/-- An 8-bit byte of MSG, and an 8-bit character code of OUT (R26, R27). -/
abbrev Byte := BitVec 8

end Sys2Proof
end

