-- ==== Sys2Proof/Syntax.lean ====
section
/-! DEFINITION. The ten commands of CORE (R92), one constructor per row of spec/opcode_table.json. -/

namespace Sys2Proof

/-- A command of CORE (R92). `blk` is the unsigned block index of format B (R91), a natural number because every
rule computes with it exactly (R120). DESIGN CHOICE, log 13. -/
inductive Instr where
  /-- INIT: load the initial hash value (R132). -/
  | init
  /-- LDBLK blk: load the 16 words of a block into W[0..15] (R141). -/
  | ldblk (blk : Nat)
  /-- EXPAND: compute W[16..63] (R142). -/
  | expand
  /-- ROUNDS: run the 64 compression rounds (R157). -/
  | rounds
  /-- ADDH: add the working variables into the hash state (R158). -/
  | addh
  /-- BLOCK blk: fold one block into the hash state (R170). -/
  | block (blk : Nat)
  /-- DIGEST: compute the hash state of the whole padded message (R171). -/
  | digest
  /-- HEX: encode the hash state into OUT (R186). -/
  | hex
  /-- HASH: DIGEST followed by HEX (R187). -/
  | hash
  /-- CLRERR: clear the recorded fault (R133). -/
  | clrerr
  deriving DecidableEq, Repr

end Sys2Proof
end

