-- ==== Sys2Proof/WellFormed.lean ====
section
/-! DEFINITION. Which instructions a command word can express: a block index fits its 24-bit field (R91, R96). -/

namespace Sys2Proof

/-- A block index fits the field `blk`, 24 bits unsigned (R90, R91). -/
def blkFits (blk : Nat) : Bool := decide (blk < 2 ^ 24)

/-- The check of one command: only format B has a field to check (R90, R95). -/
def Instr.wellFormed : Instr → Bool
  | .init => true
  | .ldblk blk => blkFits blk
  | .expand => true
  | .rounds => true
  | .addh => true
  | .block blk => blkFits blk
  | .digest => true
  | .hex => true
  | .hash => true
  | .clrerr => true

/-- A command some command word stands for (R90, R91). -/
abbrev Instr.WellFormed (i : Instr) : Prop := i.wellFormed = true

end Sys2Proof
end

