-- ==== Sys2Proof/Decode.lean ====
section
/-! DEFINITION. Command words: the decoder (R90 to R95, total on 32-bit words), the encoder, and the opcode map of R92 as
a table. -/

namespace Sys2Proof

/-- Why a word is illegal, the two cases of R94. -/
inductive Illegal where
  /-- R94 (a): `c[31:24]` is no opcode of R92. -/
  | unknownOpcode (op : BitVec 8)
  /-- R94 (b): a format Z opcode with `c[23:0]` not zero. -/
  | nonzeroField (op : BitVec 8)
  deriving DecidableEq, Repr

/-- The field `op = c[31:24]` (R90). -/
def opField (c : Word) : BitVec 8 := c.extractLsb' 24 8

/-- The field `zero` or `blk`, `c[23:0]` (R90). -/
def lowField (c : Word) : BitVec 24 := c.extractLsb' 0 24

/-- Format Z: the low 24 bits must be zero (R90, R94 (b)). -/
def decodeZ (i : Instr) (c : Word) : Except Illegal Instr :=
  if lowField c = 0#24 then .ok i else .error (.nonzeroField (opField c))

/-- The decoder (R92, R93, R94): the opcode alone determines the format (R90), and any `blk` is legal (R95). -/
def decode (c : Word) : Except Illegal Instr :=
  if opField c = 0x01#8 then decodeZ .init c
  else if opField c = 0x02#8 then .ok (.ldblk (lowField c).toNat)
  else if opField c = 0x03#8 then decodeZ .expand c
  else if opField c = 0x04#8 then decodeZ .rounds c
  else if opField c = 0x05#8 then decodeZ .addh c
  else if opField c = 0x06#8 then .ok (.block (lowField c).toNat)
  else if opField c = 0x07#8 then decodeZ .digest c
  else if opField c = 0x08#8 then decodeZ .hex c
  else if opField c = 0x09#8 then decodeZ .hash c
  else if opField c = 0x0F#8 then decodeZ .clrerr c
  else .error (.unknownOpcode (opField c))

/-- The opcode of a command (R92). -/
def opcode : Instr → BitVec 8
  | .init => 0x01#8
  | .ldblk _ => 0x02#8
  | .expand => 0x03#8
  | .rounds => 0x04#8
  | .addh => 0x05#8
  | .block _ => 0x06#8
  | .digest => 0x07#8
  | .hex => 0x08#8
  | .hash => 0x09#8
  | .clrerr => 0x0F#8

/-- The low field of a command: the block index of format B, zero in format Z (R90). -/
def operandField : Instr → BitVec 24
  | .init => 0#24
  | .ldblk blk => BitVec.ofNat 24 blk
  | .expand => 0#24
  | .rounds => 0#24
  | .addh => 0#24
  | .block blk => BitVec.ofNat 24 blk
  | .digest => 0#24
  | .hex => 0#24
  | .hash => 0#24
  | .clrerr => 0#24

/-- The command word of a command: `op` in bits 31:24, the low field in bits 23:0 (R90). -/
def encode (i : Instr) : Word := opcode i ++ operandField i

/-- The two formats of R90. -/
inductive Format where
  | z
  | b
  deriving DecidableEq, Repr

/-- One row of the opcode map (R92). -/
structure OpRow where
  mnemonic : String
  format : Format
  matchBits : Word
  mask : Word
  deriving DecidableEq, Repr

/-- The opcode map of R92. -/
def opcodeTable : List OpRow :=
  [ ⟨"INIT", .z, 0x01000000#32, 0xFFFFFFFF#32⟩,
    ⟨"LDBLK", .b, 0x02000000#32, 0xFF000000#32⟩,
    ⟨"EXPAND", .z, 0x03000000#32, 0xFFFFFFFF#32⟩,
    ⟨"ROUNDS", .z, 0x04000000#32, 0xFFFFFFFF#32⟩,
    ⟨"ADDH", .z, 0x05000000#32, 0xFFFFFFFF#32⟩,
    ⟨"BLOCK", .b, 0x06000000#32, 0xFF000000#32⟩,
    ⟨"DIGEST", .z, 0x07000000#32, 0xFFFFFFFF#32⟩,
    ⟨"HEX", .z, 0x08000000#32, 0xFFFFFFFF#32⟩,
    ⟨"HASH", .z, 0x09000000#32, 0xFFFFFFFF#32⟩,
    ⟨"CLRERR", .z, 0x0F000000#32, 0xFFFFFFFF#32⟩ ]

/-- A word is the command of a row iff `(c and mask) = match` (R92). -/
def OpRow.matches (r : OpRow) (c : Word) : Bool := c &&& r.mask == r.matchBits

/-- The mnemonic of a command (R92). -/
def mnemonicOf : Instr → String
  | .init => "INIT"
  | .ldblk _ => "LDBLK"
  | .expand => "EXPAND"
  | .rounds => "ROUNDS"
  | .addh => "ADDH"
  | .block _ => "BLOCK"
  | .digest => "DIGEST"
  | .hex => "HEX"
  | .hash => "HASH"
  | .clrerr => "CLRERR"

/-- What the decoder reads from the opcode-table word `w` of `nbits` bits. Every command is ONE 32-bit word (R90), so bits above 31
do not exist and a row of fewer bits has zeros above them. -/
def decodeTableWord (nbits w : Nat) : Option Instr :=
  match decode (BitVec.ofNat 32 (w % 2 ^ nbits)) with
  | .ok i => some i
  | .error _ => none

end Sys2Proof
end

