-- ==== Sys2Proof/Config.lean ====
section
/-! DEFINITION. What an implementation fixes (R6) and the free values of the model (R33, R38, R61, U1 to U3).
Every opaque constant here has no body: nothing can be proved about its value. -/

namespace Sys2Proof.Config

/-- The open part of the parameter `MSG_BYTES` (R6). -/
opaque freeMsgBlocks : Nat

/-- The capacity of MSG in 64-byte blocks: any number from 1 to 2^24 (R6). DESIGN CHOICE, log 1. -/
def msgBlocks : Nat := freeMsgBlocks % 2 ^ 24 + 1

/-- The parameter `MSG_BYTES`: a multiple of 64 with 64 <= MSG_BYTES <= 2^30 (R6). -/
def msgBytes : Nat := 64 * msgBlocks

/-- Bus address of register number 0, used by no rule (R6, R32). Log 18. -/
opaque regBase : Nat

/-- Bus address of MSG byte 0, used by no rule (R6, R70). Log 18. -/
opaque msgBase : Nat

/-- Where a byte-addressed bus would place register number `r` (R32). -/
def regBusAddress (r : Nat) : Nat := regBase + 4 * r

/-- Where a byte-addressed bus would place MSG byte `a` (R6, R70). -/
def msgBusAddress (a : Nat) : Nat := msgBase + a

/-- A FREE VALUE: what reading the unspecified register number `r` gives at draw `d` (R33, R38, U1, U2). Log 5. -/
opaque freeWord (d r : Nat) : Word

/-- A FREE VALUE: what reading the unspecified byte of MSG or OUT number `a` gives at draw `d` (R38, R61, U1, U3). Log 5. -/
opaque freeByte (d a : Nat) : Byte

/-- The three choices of the host parameter `BadCodePoint` (R6, R202, D29). -/
inductive BadCodePoint where
  /-- The host's text encoder fails. -/
  | fail
  /-- The code point is replaced by U+FFFD. -/
  | replace
  /-- The code point is encoded by the table as if it were a scalar value. -/
  | asScalar
  deriving DecidableEq, Repr, Inhabited

/-- The host parameter `BadCodePoint` (R6): open. Log 15. -/
opaque badCodePoint : BadCodePoint

end Sys2Proof.Config
end

