-- ==== Sys2Proof/Machine/State.lean ====
section
/-! DEFINITION. The state of CORE (10_state.md), the host's accesses and replies, the reasons a step can stop, and the state
after reset (R38). -/

namespace Sys2Proof.Machine

/-- One access of the host to its port (R11, R33, R34, R61), or one of the two other lines of a host script (R96). -/
inductive HostOp where
  /-- `RegRead(r)` (R33). -/
  | regRead (r : Nat)
  /-- `RegWrite(r, v)` (R34); with `r = 0` the issue of command `v` (R30). -/
  | regWrite (r : Nat) (v : Word)
  /-- `HostMsgRead(a)` (R61). -/
  | msgRead (a : Nat)
  /-- `HostMsgWrite(a, b)` (R61). -/
  | msgWrite (a : Nat) (b : Byte)
  /-- `WAIT`: read STATUS until BUSY is 0 (R96). -/
  | wait
  /-- `RESET`: the reset event (R96, R250). -/
  | reset
  deriving DecidableEq, Repr

/-- What a read of the host has returned. -/
inductive Reply where
  /-- Register number `r` read as `v` (R33). -/
  | reg (r : Nat) (v : Word)
  /-- MSG address `a` read as `b` (R61). -/
  | msg (a : Nat) (b : Byte)
  deriving DecidableEq, Repr

/-- The engine (R11, R36): idle, or within the BUSY window of a command. `left` is the number of host accesses that will still
find BUSY = 1 (R6, R131). BUSY is 1 exactly when the engine is not idle (log 12, 19). -/
inductive Engine where
  | idle
  | executing (cmd : Instr) (left : Nat)
  deriving DecidableEq, Repr

/-- The four faults of CORE (R220). They are recorded in STATUS and the machine goes on (R227). -/
inductive Cause where
  /-- R221: DIGEST or HASH with `LEN mod 64 != 0`. -/
  | bufferInvariantViolation
  /-- R222: a CMD write of an illegal word. -/
  | illegalCommand
  /-- R223: a write to CMD, LEN or MSG in the BUSY window. -/
  | busyViolation
  /-- R224: a block, or LEN, beyond what there is. -/
  | blockRange
  deriving DecidableEq, Repr

/-- The reasons for which the MACHINE stops: there are none. Every fault of the spec is recorded in STATUS and the machine goes on
(R220, R226, R227). Log 20; safe. -/
inductive Fault where
  deriving DecidableEq, Repr

/-- The reasons for which a command has no meaning. -/
inductive Refusal where
  /-- Raised by exec's arm of a command that has no meaning yet (none has this today); safe, since nothing can be proved of it. -/
  | notModelled (mnemonic : String)
  deriving DecidableEq, Repr

/-- A given BUSY_STEPS: if the next accepted command is `cmd`, it stays BUSY for `steps` host accesses (R6, R131). Log 6. -/
structure Window where
  cmd : Instr
  steps : Nat
  deriving DecidableEq, Repr

/-- The message memory: the bytes the host has written since reset, by rising address. An address that is not listed has never been
written (R27, R38, R61). Log 4. -/
abbrev Mem := List Host.Cell

/-- The state of CORE (10_state.md), then the model's own fields: the host's side of the port and the inputs the spec leaves open. -/
structure State where
  /-- Hash state H[0..7] (R20). -/
  h : Vector Word 8
  /-- Which H[j] hold a specified value (R33, R38, U1). -/
  hKnown : Vector Bool 8
  /-- Working variables V[0..7] = a..h (R21). -/
  v : Vector Word 8
  /-- Which V[j] hold a specified value (R33, R38, U1). -/
  vKnown : Vector Bool 8
  /-- Message schedule W[0..63] (R22). -/
  w : Vector Word 64
  /-- Which W[t] hold a specified value (R33, R38, U1). -/
  wKnown : Vector Bool 64
  /-- Output characters OUT[0..63] (R26). -/
  out : Vector Byte 64
  /-- Which OUT[i] hold a specified value (R33, R38, U1). -/
  outKnown : Vector Bool 64
  /-- Message memory MSG (R27). -/
  msg : Mem
  /-- LEN, register number 2 (R28). -/
  len : Word
  /-- STATUS.DONE (R31). -/
  done : Bool
  /-- STATUS.ERR (R31). -/
  err : Bool
  /-- STATUS.ERRCODE (R31, R220). -/
  errCode : BitVec 4
  /-- The executing command, and with it STATUS.BUSY (R31, R36). -/
  engine : Engine
  /-- The model's own: BUSY_STEPS given for commands to come, one entry an accepted command; where the entry is missing or
  names another command, BUSY_STEPS is a free value (R6, R131, R261, U4). Log 6. -/
  windows : List Window
  /-- The model's own: the accesses the host will make, oldest first (R11, R72). Log 8. -/
  host : List HostOp
  /-- The model's own: what the host's reads have returned, oldest first. Log 8. -/
  replies : List Reply
  /-- The model's own: the number of the next draw of free values. Log 5. -/
  draw : Nat
  deriving DecidableEq, Repr

/-- The machine right after reset (R38, R250). H, V, W, OUT and MSG are unspecified: their fields hold zero (MSG: lists nothing), a value
nothing reads while it is marked unspecified (DESIGN CHOICE, log 2). The model's own fields are empty (DESIGN CHOICE, log 21). -/
def State.reset : State where
  h := Vector.replicate 8 0#32
  hKnown := Vector.replicate 8 false
  v := Vector.replicate 8 0#32
  vKnown := Vector.replicate 8 false
  w := Vector.replicate 64 0#32
  wKnown := Vector.replicate 64 false
  out := Vector.replicate 64 0#8
  outKnown := Vector.replicate 64 false
  msg := []
  len := 0#32
  done := false
  err := false
  errCode := 0#4
  engine := .idle
  windows := []
  host := []
  replies := []
  draw := 0

end Sys2Proof.Machine
end

