-- ==== Sys2Proof/Machine/Flags.lean ====
section
/-! DEFINITION. The STATUS register (R31) and the fault codes (R220). The datapath sets no flag (R37). -/

namespace Sys2Proof.Machine

/-- STATUS.BUSY: 1 from the acceptance of a command to its completion (R31). -/
def State.busy (s : State) : Bool :=
  match s.engine with
  | .idle => false
  | .executing _ _ => true

/-- What STATUS.ERRCODE holds after a fault (R220). -/
def Cause.code : Cause → BitVec 4
  | .bufferInvariantViolation => 1#4
  | .illegalCommand => 2#4
  | .busyViolation => 3#4
  | .blockRange => 4#4

/-- The word STATUS reads as: BUSY bit 0, DONE bit 1, ERR bit 2, ERRCODE bits 7:4, bits 3 and 31:8 zero (R31). -/
def State.statusWord (s : State) : Word :=
  0#24 ++ s.errCode ++ 0#1 ++ BitVec.ofBool s.err ++ BitVec.ofBool s.done ++ BitVec.ofBool s.busy

end Sys2Proof.Machine
end

