-- ==== Sys2Proof/Machine/Datapath.lean ====
section
/-! DEFINITION. The arithmetic of the datapath (40_arith.md), the expansion step (R140) and the round (R155, R156). Pure functions on
words: none faults, none writes a flag (R120). The `Known` functions say which results are specified (log 3).
`irreducible` here and in the files below keeps Lean from unrolling a table of 64 words when it compares two states; `unfold`,
`simp` and the kernel still unfold these definitions. -/

namespace Sys2Proof.Machine

/-- R110: addition modulo 2^32, the carry discarded. -/
def add32 (x y : Word) : Word := x + y

/-- R112: logical right shift, zeros entering at bit 31. -/
def shr (x : Word) (n : Nat) : Word := x >>> n

/-- R113: rotation right by `n` positions, 0 < n < 32 (general knowledge G6, log 14). -/
def rotr (x : Word) (n : Nat) : Word := x >>> n ||| x <<< (32 - n)

/-- R114. -/
def ssig0 (x : Word) : Word := rotr x 7 ^^^ rotr x 18 ^^^ shr x 3

/-- R115. -/
def ssig1 (x : Word) : Word := rotr x 17 ^^^ rotr x 19 ^^^ shr x 10

/-- R116 (general knowledge G3, log 14). -/
def bsig0 (x : Word) : Word := rotr x 2 ^^^ rotr x 13 ^^^ rotr x 22

/-- R117 (general knowledge G3, log 14). -/
def bsig1 (x : Word) : Word := rotr x 6 ^^^ rotr x 11 ^^^ rotr x 25

/-- R118. -/
def ch (e f g : Word) : Word := g ^^^ (e &&& (f ^^^ g))

/-- R119. -/
def maj (a b c : Word) : Word := (a &&& b) ^^^ (c &&& (a ^^^ b))

/-- R121: a word from four bytes, the first most significant. -/
def be32 (b0 b1 b2 b3 : Byte) : Word := b0 ++ b1 ++ b2 ++ b3

/-- R7, R121: byte `k` of a word, k in 0..3, byte 0 being bits 31:24. -/
def byteOf (x : Word) (k : Nat) : Byte := x.extractLsb' (24 - 8 * k) 8

/-- R140: the value step 2 gives word `t`, t in 16..63, from four earlier words. -/
def schedWord (w : Vector Word 64) (t : Nat) : Word :=
  add32 (add32 (add32 (w.getD (t - 16) 0#32) (ssig0 (w.getD (t - 15) 0#32))) (w.getD (t - 7) 0#32))
    (ssig1 (w.getD (t - 2) 0#32))

/-- The words W[16 .. 15+n] computed in ascending order, each from the current W (R142). -/
def expandUpTo (w : Vector Word 64) : Nat → Vector Word 64
  | 0 => w
  | n + 1 => (expandUpTo w n).setIfInBounds (16 + n) (schedWord (expandUpTo w n) (16 + n))

/-- The whole schedule from W[0..15] (R142). -/
@[irreducible] def expandWords (w : Vector Word 64) : Vector Word 64 := expandUpTo w 48

/-- Word `t` of the schedule is specified when the four words it is computed from are (R140, R255, U1). -/
def schedKnown (k : Vector Bool 64) (t : Nat) : Bool :=
  k.getD (t - 16) false && k.getD (t - 15) false && k.getD (t - 7) false && k.getD (t - 2) false

/-- `expandUpTo` for the marks of specified words. -/
def expandKnownUpTo (k : Vector Bool 64) : Nat → Vector Bool 64
  | 0 => k
  | n + 1 => (expandKnownUpTo k n).setIfInBounds (16 + n) (schedKnown (expandKnownUpTo k n) (16 + n))

/-- `expandWords` for the marks of specified words. -/
@[irreducible] def expandKnown (k : Vector Bool 64) : Vector Bool 64 := expandKnownUpTo k 48

/-- R155: `T1 = add32(h, bsig1(e), Ch(e, f, g), k, w)`. -/
def roundT1 (v : Vector Word 8) (k w : Word) : Word :=
  add32 (add32 (add32 (add32 v[7] (bsig1 v[4])) (ch v[4] v[5] v[6])) k) w

/-- R155: `T2 = add32(bsig0(a), Maj(a, b, c))`. -/
def roundT2 (v : Vector Word 8) : Word := add32 (bsig0 v[0]) (maj v[0] v[1] v[2])

/-- R155: one round; the eight new values are all computed from the eight old ones. -/
def roundStep (v : Vector Word 8) (k w : Word) : Vector Word 8 :=
  #v[add32 (roundT1 v k w) (roundT2 v), v[0], v[1], v[2], add32 v[3] (roundT1 v k w), v[4], v[5], v[6]]

/-- R156: `V_n`, n rounds from the hash state, round i using exactly `k[i]` and `w[i]`. -/
def roundsUpTo (k w : Vector Word 64) (h : Vector Word 8) : Nat → Vector Word 8
  | 0 => h
  | n + 1 => roundStep (roundsUpTo k w h n) (k.getD n 0#32) (w.getD n 0#32)

/-- Which results of a round are specified: `T1` needs e, f, g, h and the schedule word, `T2` needs a, b, c (R155, R255, U1). -/
def roundStepKnown (v : Vector Bool 8) (w : Bool) : Vector Bool 8 :=
  let t1 := v[7] && v[4] && v[5] && v[6] && w
  let t2 := v[0] && v[1] && v[2]
  #v[t1 && t2, v[0], v[1], v[2], v[3] && t1, v[4], v[5], v[6]]

/-- `roundsUpTo` for the marks of specified words. -/
def roundsKnownUpTo (w : Vector Bool 64) (h : Vector Bool 8) : Nat → Vector Bool 8
  | 0 => h
  | n + 1 => roundStepKnown (roundsKnownUpTo w h n) (w.getD n false)

/-- R158: add the working variables into the hash state, word by word. -/
@[irreducible] def addWords (h v : Vector Word 8) : Vector Word 8 := Vector.ofFn fun j => add32 h[j] v[j]

/-- `addWords` for the marks of specified words. -/
@[irreducible] def addKnown (h v : Vector Bool 8) : Vector Bool 8 := Vector.ofFn fun j => h[j] && v[j]

end Sys2Proof.Machine
end

