-- ==== Sys2Proof/Machine/Tables.lean ====
section
/-! DEFINITION. The constant tables of CORE (R23, R24, R25) and the functions that use them (R156, R185). No step writes them (R40). -/

namespace Sys2Proof.Machine

/-- K[0..15] of R23 (general knowledge G1, log 14). -/
def kConst0 : Vector Word 16 :=
  #v[0x428a2f98#32, 0x71374491#32, 0xb5c0fbcf#32, 0xe9b5dba5#32,
    0x3956c25b#32, 0x59f111f1#32, 0x923f82a4#32, 0xab1c5ed5#32,
    0xd807aa98#32, 0x12835b01#32, 0x243185be#32, 0x550c7dc3#32,
    0x72be5d74#32, 0x80deb1fe#32, 0x9bdc06a7#32, 0xc19bf174#32]

/-- K[16..31] of R23 (general knowledge G1, log 14). -/
def kConst16 : Vector Word 16 :=
  #v[0xe49b69c1#32, 0xefbe4786#32, 0x0fc19dc6#32, 0x240ca1cc#32,
    0x2de92c6f#32, 0x4a7484aa#32, 0x5cb0a9dc#32, 0x76f988da#32,
    0x983e5152#32, 0xa831c66d#32, 0xb00327c8#32, 0xbf597fc7#32,
    0xc6e00bf3#32, 0xd5a79147#32, 0x06ca6351#32, 0x14292967#32]

/-- K[32..47] of R23 (general knowledge G1, log 14). -/
def kConst32 : Vector Word 16 :=
  #v[0x27b70a85#32, 0x2e1b2138#32, 0x4d2c6dfc#32, 0x53380d13#32,
    0x650a7354#32, 0x766a0abb#32, 0x81c2c92e#32, 0x92722c85#32,
    0xa2bfe8a1#32, 0xa81a664b#32, 0xc24b8b70#32, 0xc76c51a3#32,
    0xd192e819#32, 0xd6990624#32, 0xf40e3585#32, 0x106aa070#32]

/-- K[48..63] of R23 (general knowledge G1, log 14). -/
def kConst48 : Vector Word 16 :=
  #v[0x19a4c116#32, 0x1e376c08#32, 0x2748774c#32, 0x34b0bcb5#32,
    0x391c0cb3#32, 0x4ed8aa4a#32, 0x5b9cca4f#32, 0x682e6ff3#32,
    0x748f82ee#32, 0x78a5636f#32, 0x84c87814#32, 0x8cc70208#32,
    0x90befffa#32, 0xa4506ceb#32, 0xbef9a3f7#32, 0xc67178f2#32]

/-- The round constants `K[0..63]`, a read-only memory of 64 words (R23). -/
def kConst : Vector Word 64 := kConst0 ++ kConst16 ++ kConst32 ++ kConst48

/-- The initial hash value `IV[0..7]` (R24; general knowledge G2, log 14). -/
def iv : Vector Word 8 :=
  #v[0x6a09e667#32, 0xbb67ae85#32, 0x3c6ef372#32, 0xa54ff53a#32,
    0x510e527f#32, 0x9b05688c#32, 0x1f83d9ab#32, 0x5be0cd19#32]

/-- R25: the character `0123456789abcdef`[n] as its ASCII code (general knowledge G5, log 14). -/
def hexChar (n : Nat) : Byte := if n ≤ 9 then BitVec.ofNat 8 (0x30 + n) else BitVec.ofNat 8 (0x61 + (n - 10))

/-- R25: entry `b` of the lookup table, high nibble first. -/
def lutEntry (b : Nat) : Byte × Byte := (hexChar (b / 16), hexChar (b % 16))

/-- The hex lookup table `LUT[0..255]`, a read-only memory of 256 entries of two characters (R25, R188). -/
def lutTable : List (Byte × Byte) := (List.range 256).map lutEntry

/-- One table lookup (R186). -/
def lut (b : Byte) : Byte × Byte := lutTable.getD b.toNat (0#8, 0#8)

/-- R156: `Rounds64(H, W)`, the 64 rounds with the constants K. -/
@[irreducible] def rounds64 (h : Vector Word 8) (w : Vector Word 64) : Vector Word 8 := roundsUpTo kConst w h 64

/-- `rounds64` for the marks of specified words; K is always specified (R253). -/
@[irreducible] def rounds64Known (h : Vector Bool 8) (w : Vector Bool 64) : Vector Bool 8 := roundsKnownUpTo w h 64

/-- R185: byte `k` of word `H[j]` gives the characters `8j+2k` (high nibble) and `8j+2k+1` (low nibble). -/
def hexCharAt (h : Vector Word 8) (i : Nat) : Byte :=
  if i % 2 = 0 then (lut (byteOf (h.getD (i / 8) 0#32) (i % 8 / 2))).1
  else (lut (byteOf (h.getD (i / 8) 0#32) (i % 8 / 2))).2

/-- R185: `HexEncode(H)`, 64 characters, character 0 the leftmost. -/
@[irreducible] def hexEncode (h : Vector Word 8) : Vector Byte 64 := Vector.ofFn fun i => hexCharAt h i

/-- `hexEncode` for the marks: character i is specified when word `H[i / 8]` is. -/
@[irreducible] def hexKnown (h : Vector Bool 8) : Vector Bool 64 := Vector.ofFn fun i => h.getD (i / 8) false

end Sys2Proof.Machine
end

