-- ==== Sys2Proof/Machine/Operands.lean ====
section
/-! DEFINITION. Where commands get their operands: MSG by byte and by big-endian word (R61 to R63), the block operand (R91, R141), and
the views of H, V, W and OUT, in which an unspecified location gives a free value (R33, R38, U1; logs 3, 5). -/

namespace Sys2Proof.Machine

/-- The byte the host last wrote at `a` since reset, if it wrote one (R27, R61). -/
def Mem.find : Mem → Nat → Option Byte
  | [], _ => none
  | (x, b) :: m, a => if a = x then some b else Mem.find m a

/-- Store a byte at `a`, keeping the addresses rising and without repeats (R61). -/
def Mem.put : Mem → Nat → Byte → Mem
  | [], a, b => [(a, b)]
  | (x, y) :: m, a, b =>
    if a < x then (a, b) :: (x, y) :: m
    else if a = x then (a, b) :: m
    else (x, y) :: Mem.put m a b

/-- The one canonical form of the message memory: addresses strictly rising, each below MSG_BYTES (R27, R61). -/
abbrev Mem.wf (m : Mem) : Prop := m.Pairwise (fun x y => x.1 < y.1) ∧ ∀ c ∈ m, c.1 < Config.msgBytes

/-- What reading MSG byte `a` gives: the stored byte, or a free value where nothing was written or no memory exists (R61, R38, U1,
U3). Logs 4, 17. -/
def State.msgByte (s : State) (a : Nat) : Byte :=
  match Mem.find s.msg a with
  | some b => b
  | none => Config.freeByte s.draw a

/-- Whether MSG byte `a` holds a specified value (R38, U1). -/
def State.msgKnown (s : State) (a : Nat) : Bool := (Mem.find s.msg a).isSome

/-- The engine's `MemRead(addr, 4)`, big-endian (R9, R62, R63). -/
def State.msgWord (s : State) (a : Nat) : Word :=
  be32 (s.msgByte a) (s.msgByte (a + 1)) (s.msgByte (a + 2)) (s.msgByte (a + 3))

/-- A word of MSG is specified when its four bytes are. -/
def State.msgWordKnown (s : State) (a : Nat) : Bool :=
  s.msgKnown a && s.msgKnown (a + 1) && s.msgKnown (a + 2) && s.msgKnown (a + 3)

/-- The byte address of word `t` of block `blk` (R62, R91): natural-number arithmetic. -/
def blockWordAddr (blk t : Nat) : Nat := 64 * blk + 4 * t

/-- R141, R170: the whole block lies inside the padded message and inside the memory: `64 * (blk + 1) > min(LEN, MSG_BYTES)` is
false. -/
def State.blockOutside (s : State) (blk : Nat) : Bool :=
  decide (s.len.toNat < 64 * (blk + 1)) || decide (Config.msgBytes < 64 * (blk + 1))

/-- The number of H[0] in the register map (R32). -/
def hReg : Nat := 8
/-- The number of V[0] in the register map (R32). -/
def vReg : Nat := 16
/-- The number of OUTW[0] in the register map (R32). -/
def outReg : Nat := 32
/-- The number of W[0] in the register map (R32). -/
def wReg : Nat := 64
/-- The number of K[0] in the register map (R32). -/
def kReg : Nat := 128
/-- The number of LUT[0] in the register map (R32). -/
def lutReg : Nat := 256

/-- What reading H[0..7] gives (R20, R33): the value held, or a free value where it is unspecified. -/
@[irreducible] def State.hView (s : State) : Vector Word 8 :=
  Vector.ofFn fun j => if s.hKnown[j] then s.h[j] else Config.freeWord s.draw (hReg + j)

/-- What reading V[0..7] gives (R21, R33). -/
@[irreducible] def State.vView (s : State) : Vector Word 8 :=
  Vector.ofFn fun j => if s.vKnown[j] then s.v[j] else Config.freeWord s.draw (vReg + j)

/-- What reading W[0..63] gives (R22, R33). -/
@[irreducible] def State.wView (s : State) : Vector Word 64 :=
  Vector.ofFn fun t => if s.wKnown[t] then s.w[t] else Config.freeWord s.draw (wReg + t)

/-- What reading OUT[0..63] gives (R26, R33). -/
@[irreducible] def State.outView (s : State) : Vector Byte 64 :=
  Vector.ofFn fun i => if s.outKnown[i] then s.out[i] else Config.freeByte s.draw i

end Sys2Proof.Machine
end

