-- ==== Sys2Proof/Machine/Ops.lean ====
section
/-! DEFINITION. The command protocol every command shares: raising a fault (R227) and returning from it (R231), acceptance, the BUSY
window and completion (R130, R131). -/

namespace Sys2Proof.Config

/-- A FREE VALUE: BUSY_STEPS(cmd, state), any number for each command and state (R6, R131, R261, U4). It stands here and not in
Config.lean because it takes a State. Log 6. -/
opaque busySteps (cmd : Instr) (s : Machine.State) : Nat

end Sys2Proof.Config

namespace Sys2Proof.Machine

/-- `raise F` (R227): record the fault unless one is recorded already; nothing else changes. -/
def State.raise (f : Cause) (s : State) : State :=
  if s.err then s else { s with err := true, errCode := f.code }

/-- The return from a fault, CLRERR's effect (R133, R231): it restores nothing, because a fault saves nothing. -/
def State.clearFault (s : State) : State := { s with err := false, errCode := 0#4 }

/-- `STATUS.DONE <- 0` (R130 cases 3 to 5). -/
def State.dropDone (s : State) : State := { s with done := false }

/-- Completion: `STATUS.BUSY <- 0; STATUS.DONE <- 1` (R131). -/
def State.complete (s : State) : State := { s with engine := .idle, done := true }

/-- BUSY_STEPS(cmd, state) of the command accepted in this state (R6, R261, U4): what `windows` gives for this very command, else the
free value, which no rule relates between commands or states. Log 6. -/
def State.nextWindow (s : State) (i : Instr) : Nat :=
  match s.windows with
  | [] => Config.busySteps i s
  | w :: _ => if w.cmd = i then w.steps else Config.busySteps i s

/-- Open the BUSY window of an accepted command (R130 case 5, R131), `n` host accesses long; with 0 the command completes at once.
`draw` advances so that the next free values are fresh (logs 5, 6). -/
def State.openWindow (i : Instr) (n : Nat) (s : State) : State :=
  match n with
  | 0 => { s with windows := s.windows.tail, draw := s.draw + 1 }.complete
  | n + 1 => { s with windows := s.windows.tail, draw := s.draw + 1, engine := .executing i (n + 1) }

/-- Case 5 of R130, then R131: DONE is cleared, the command's pseudocode is carried out exactly once, and the window opens. Log 7. -/
def State.accept (i : Instr) (effect : State → State) (s : State) : State :=
  (effect s.dropDone).openWindow i (s.nextWindow i)

/-- Cases 1 and 2 of R130, which look at no more of the word than whether it is CLRERR; `body` is cases 3 to 5. -/
def State.protocol (isClrerr : Bool) (body : State → State) (s : State) : State :=
  if s.busy then s.raise .busyViolation
  else if s.err && !isClrerr then s
  else body s

/-- Cases 4 and 5 of R130: the precondition check, then acceptance. -/
def State.checked (i : Instr) (check : State → Option Cause) (effect : State → State) (s : State) : State :=
  match check s with
  | some f => s.dropDone.raise f
  | none => s.accept i effect

/-- Issue of the legal command `i` (R130): `check` is its precondition check, `effect` its pseudocode. -/
def State.issue (i : Instr) (check : State → Option Cause) (effect : State → State) (s : State) : State :=
  s.protocol (i == .clrerr) (State.checked i check effect)

/-- Issue of an illegal word (R94, R130 cases 1 to 3, R222). -/
def State.issueIllegal (s : State) : State :=
  s.protocol false fun s => s.dropDone.raise .illegalCommand

/-- The precondition check of a command that has none. -/
def noCheck (_ : State) : Option Cause := none

/-- R141, R170: LDBLK and BLOCK raise BlockRange when the block is not wholly inside. -/
def checkBlock (blk : Nat) (s : State) : Option Cause :=
  if s.blockOutside blk then some .blockRange else none

/-- R171, R187: DIGEST and HASH check the length, then the range, in this order. -/
def checkLength (s : State) : Option Cause :=
  if s.len.toNat % 64 ≠ 0 then some .bufferInvariantViolation
  else if Config.msgBytes < s.len.toNat then some .blockRange
  else none

/-- One host access of the BUSY window has passed (R6, R131): after the last one the command completes. Log 9. -/
def State.tick (s : State) : State :=
  match s.engine with
  | .idle => s
  | .executing i left => if left ≤ 1 then s.complete else { s with engine := .executing i (left - 1) }

end Sys2Proof.Machine
end

