-- ==== Sys2Proof/Machine/Control.lean ====
section
/-! DEFINITION. INIT (R132) and CLRERR (R133). -/

namespace Sys2Proof.Machine

/-- After INIT every word of H is specified. -/
def allKnown : Vector Bool 8 := Vector.replicate 8 true

/-- INIT's pseudocode (R132): H <- IV. -/
def State.initEffect (s : State) : State :=
  { s with h := iv, hKnown := allKnown }

/-- INIT (R132). -/
def execInit (s : State) : Host.Outcome State Fault Refusal :=
  .next (s.issue .init noCheck State.initEffect)

/-- CLRERR (R133): the one command accepted while ERR = 1. -/
def execClrerr (s : State) : Host.Outcome State Fault Refusal :=
  .next (s.issue .clrerr noCheck State.clearFault)

end Sys2Proof.Machine
end

