-- ==== Sys2Proof/Machine/Round.lean ====
section
/-! DEFINITION. The round processor: ROUNDS (R157) and ADDH (R158). -/

namespace Sys2Proof.Machine

/-- ROUNDS' pseudocode (R157): V <- Rounds64(H, W). -/
def State.roundsEffect (s : State) : State :=
  { s with v := rounds64 s.hView s.wView, vKnown := rounds64Known s.hKnown s.wKnown }

/-- ADDH's pseudocode (R158): H[j] <- add32(H[j], V[j]). -/
def State.addhEffect (s : State) : State :=
  { s with h := addWords s.hView s.vView, hKnown := addKnown s.hKnown s.vKnown }

/-- ROUNDS (R157). -/
def execRounds (s : State) : Host.Outcome State Fault Refusal :=
  .next (s.issue .rounds noCheck State.roundsEffect)

/-- ADDH (R158). -/
def execAddh (s : State) : Host.Outcome State Fault Refusal :=
  .next (s.issue .addh noCheck State.addhEffect)

end Sys2Proof.Machine
end

