-- ==== Sys2Proof/Machine/Schedule.lean ====
section
/-! DEFINITION. The message-schedule expander: LDBLK (R141) and EXPAND (R142). -/

namespace Sys2Proof.Machine

/-- W after LDBLK (R141): W[t] is MemRead(64*blk + 4*t, 4) for t in 0..15, and W[16..63] as it was. -/
@[irreducible] def State.loadedWords (blk : Nat) (s : State) : Vector Word 64 :=
  Vector.ofFn fun t => if t.val < 16 then s.msgWord (blockWordAddr blk t) else s.w[t]

/-- The marks of specified words after LDBLK. -/
@[irreducible] def State.loadedKnown (blk : Nat) (s : State) : Vector Bool 64 :=
  Vector.ofFn fun t => if t.val < 16 then s.msgWordKnown (blockWordAddr blk t) else s.wKnown[t]

/-- W after EXPAND (R142): W[t] is SchedWord(W, t) for t in 16..63, and W[0..15] as it was. -/
@[irreducible] def State.expandedWords (s : State) : Vector Word 64 :=
  Vector.ofFn fun t => if t.val < 16 then s.w[t] else (expandWords s.wView)[t]

/-- LDBLK's pseudocode (R141): the 16 words of the block into W[0..15]. -/
def State.ldblkEffect (blk : Nat) (s : State) : State :=
  { s with w := s.loadedWords blk, wKnown := s.loadedKnown blk }

/-- EXPAND's pseudocode (R142): W[16..63] from W[0..15]. -/
def State.expandEffect (s : State) : State :=
  { s with w := s.expandedWords, wKnown := expandKnown s.wKnown }

/-- LDBLK blk (R141). -/
def execLdblk (blk : Nat) (s : State) : Host.Outcome State Fault Refusal :=
  .next (s.issue (.ldblk blk) (checkBlock blk) (State.ldblkEffect blk))

/-- EXPAND (R142). -/
def execExpand (s : State) : Host.Outcome State Fault Refusal :=
  .next (s.issue .expand noCheck State.expandEffect)

end Sys2Proof.Machine
end

