-- ==== Sys2Proof/Machine/Compress.lean ====
section
/-! DEFINITION. The compression engine: BLOCK (R170) and DIGEST (R171). -/

namespace Sys2Proof.Machine

/-- BLOCK's pseudocode (R170): load, expansion, rounds, update, as one command. -/
def State.blockEffect (blk : Nat) (s : State) : State :=
  (s.ldblkEffect blk).expandEffect.roundsEffect.addhEffect

/-- INIT, then the blocks 0 .. n-1 in ascending order (R171, R172). -/
def State.digestUpTo (s : State) : Nat → State
  | 0 => s.initEffect
  | n + 1 => (s.digestUpTo n).blockEffect n

/-- DIGEST's pseudocode (R171): all the `LEN / 64` blocks of the padded message. -/
def State.digestEffect (s : State) : State := s.digestUpTo (s.len.toNat / 64)

/-- BLOCK blk (R170). -/
def execBlock (blk : Nat) (s : State) : Host.Outcome State Fault Refusal :=
  .next (s.issue (.block blk) (checkBlock blk) (State.blockEffect blk))

/-- DIGEST (R171). -/
def execDigest (s : State) : Host.Outcome State Fault Refusal :=
  .next (s.issue .digest checkLength State.digestEffect)

end Sys2Proof.Machine
end

