-- ==== Sys2Proof/Machine/Hex.lean ====
section
/-! DEFINITION. The hex encoder: HEX (R186) and HASH (R187). -/

namespace Sys2Proof.Machine

/-- HEX's pseudocode (R186): OUT <- HexEncode(H). -/
def State.hexEffect (s : State) : State :=
  { s with out := hexEncode s.hView, outKnown := hexKnown s.hKnown }

/-- HASH's pseudocode (R187): DIGEST's, then HEX's. -/
def State.hashEffect (s : State) : State := s.digestEffect.hexEffect

/-- HEX (R186). -/
def execHex (s : State) : Host.Outcome State Fault Refusal :=
  .next (s.issue .hex noCheck State.hexEffect)

/-- HASH (R187). -/
def execHash (s : State) : Host.Outcome State Fault Refusal :=
  .next (s.issue .hash checkLength State.hashEffect)

end Sys2Proof.Machine
end

