-- ==== Sys2Proof/Machine/Dispatch.lean ====
section
/-! DEFINITION. The meaning of each command, one arm per constructor: issue of that command at the host port (R130). -/

namespace Sys2Proof.Machine

def exec (i : Instr) (s : State) : Host.Outcome State Fault Refusal :=
  match i with
  | .init => Sys2Proof.Machine.execInit s
  | .ldblk blk => Sys2Proof.Machine.execLdblk blk s
  | .expand => Sys2Proof.Machine.execExpand s
  | .rounds => Sys2Proof.Machine.execRounds s
  | .addh => Sys2Proof.Machine.execAddh s
  | .block blk => Sys2Proof.Machine.execBlock blk s
  | .digest => Sys2Proof.Machine.execDigest s
  | .hex => Sys2Proof.Machine.execHex s
  | .hash => Sys2Proof.Machine.execHash s
  | .clrerr => Sys2Proof.Machine.execClrerr s

end Sys2Proof.Machine
end

