-- ==== Sys2Proof/Machine/Port.lean ====
section
/-! DEFINITION. The host port: reads (R33), register writes other than CMD (R34), MSG accesses (R61), RESET (R250), WAIT (R96). -/

namespace Sys2Proof.Machine

/-- A register the engine may be changing: its view when BUSY = 0, a free value in the BUSY window (R33, U2). -/
def State.settled (s : State) (r : Nat) (x : Word) : Word :=
  if s.busy then Config.freeWord s.draw r else x

/-- OUTW[j]: the lower-numbered character in the more significant byte (R26, R66). -/
def State.outWord (s : State) (j : Nat) : Word :=
  be32 (s.outView.getD (4 * j) 0#8) (s.outView.getD (4 * j + 1) 0#8)
    (s.outView.getD (4 * j + 2) 0#8) (s.outView.getD (4 * j + 3) 0#8)

/-- The word register number 256+b reads as: `zext_32({hi, lo})` (R25). -/
def lutWord (b : Nat) : Word := 0#16 ++ (lut (BitVec.ofNat 8 b)).1 ++ (lut (BitVec.ofNat 8 b)).2

/-- The value of `RegRead(r)` by the register map (R32, R33); CMD, reserved and undecoded numbers read 0 (R30, R33, R34). -/
def State.readReg (s : State) (r : Nat) : Word :=
  if r = 1 then s.statusWord
  else if r = 2 then s.len
  else if r = 3 then BitVec.ofNat 32 Config.msgBytes
  else if hReg ≤ r ∧ r < hReg + 8 then s.settled r (s.hView.getD (r - hReg) 0#32)
  else if vReg ≤ r ∧ r < vReg + 8 then s.settled r (s.vView.getD (r - vReg) 0#32)
  else if outReg ≤ r ∧ r < outReg + 16 then s.settled r (s.outWord (r - outReg))
  else if wReg ≤ r ∧ r < wReg + 64 then s.settled r (s.wView.getD (r - wReg) 0#32)
  else if kReg ≤ r ∧ r < kReg + 64 then kConst.getD (r - kReg) 0#32
  else if lutReg ≤ r ∧ r < lutReg + 256 then lutWord (r - lutReg)
  else 0#32

/-- The value of `HostMsgRead(a)`: in the BUSY window too, and a free value at and above MSG_BYTES (R61, U3). -/
def State.readMsg (s : State) (a : Nat) : Byte :=
  if a < Config.msgBytes then s.msgByte a else Config.freeByte s.draw a

/-- The port answers a read: nothing of CORE changes (R33, R69). The draw counter of the free values moves on (log 5). -/
def State.reply (s : State) (x : Reply) : State := { s with replies := s.replies ++ [x], draw := s.draw + 1 }

/-- `RegWrite(r, v)` for r other than CMD (R34): LEN takes the value, or the write is dropped in the window (R28, R223); every other
register ignores it. -/
def State.writeReg (s : State) (r : Nat) (v : Word) : State :=
  if r = 2 then (if s.busy then s.raise .busyViolation else { s with len := v }) else s

/-- `HostMsgWrite(a, b)` (R61): dropped without a fault at and above MSG_BYTES, dropped with BusyViolation in the window (R223). -/
def State.writeMsg (s : State) (a : Nat) (b : Byte) : State :=
  if a < Config.msgBytes then (if s.busy then s.raise .busyViolation else { s with msg := Mem.put s.msg a b }) else s

/-- The reset event (R250, R252): the state of R38, a running command abandoned, MSG lost. What the host has planned and learnt, the
coming BUSY_STEPS and the draw counter are not CORE's (log 11). -/
def State.applyReset (s : State) : State :=
  { State.reset with windows := s.windows, host := s.host, replies := s.replies, draw := s.draw }

/-- One turn of `WAIT` (R96): read STATUS; while BUSY is 1 the statement stays at the head of the script. Log 10. -/
def State.poll (s : State) : State :=
  let t := s.reply (.reg 1 s.statusWord)
  if s.busy then { t with host := .wait :: t.host } else t

/-- A host access that is not a CMD write. A CMD write does not come here (see `nextCommand`), and nothing happens for it. -/
def State.access (s : State) : HostOp → State
  | .regRead r => s.reply (.reg r (s.readReg r))
  | .regWrite r v => s.writeReg r v
  | .msgRead a => s.reply (.msg a (s.readMsg a))
  | .msgWrite a b => s.writeMsg a b
  | .wait => s.poll
  | .reset => s.applyReset

/-- The command word of the next host access, when that is a write to CMD (R30, R34). -/
def State.nextCommand (s : State) : Option Word :=
  match s.host with
  | .regWrite 0 c :: _ => some c
  | _ => none

/-- The state with `rest` as what the host will do. -/
def State.withHost (s : State) (rest : List HostOp) : State := { s with host := rest }

/-- The next host access is taken from the script. -/
def State.popHost (s : State) : State := s.withHost s.host.tail

/-- After an access: if it was made in a BUSY window, one access of the window has passed (R6, R131). -/
def State.afterAccess (s t : State) : State := if s.busy then t.tick else t

/-- A step whose next access is no CMD write. With no access left, an executing command goes on by itself and an idle CORE waits (R38,
R263). Log 9. -/
def State.hostStep (s : State) : State :=
  match s.host with
  | [] => s.tick
  | op :: _ => s.afterAccess (s.popHost.access op)

/-- `State.afterAccess` on an outcome. -/
def finishAccess (s : State) : Host.Outcome State Fault Refusal → Host.Outcome State Fault Refusal
  | .next t => .next (s.afterAccess t)
  | .fault f => .fault f
  | .refused r => .refused r

/-- The MSG writes of a byte sequence from address `a` on, one a byte (R61, R96, R206): ascending addresses. -/
def writeBytes (a : Nat) : List Byte → List HostOp
  | [] => []
  | b :: bs => .msgWrite a b :: writeBytes (a + 1) bs

/-- The script with a CMD write of the table word `w` in front (R30, R90): the very next step issues it. Log 8. -/
def State.withCommand (s : State) (nbits w : Nat) : State :=
  { s with host := .regWrite 0 (BitVec.ofNat 32 (w % 2 ^ nbits)) :: s.host }

end Sys2Proof.Machine
end

