-- ==== Sys2Proof/Machine/Step.lean ====
section
/-! DEFINITION. One step of the machine: one host access (R72), a CMD write being decoded and run. -/

namespace Sys2Proof.Machine

/-- One step. A write to CMD is issued as R130 says: a legal word runs `exec`, an illegal one is R130's cases 1 to 3. Any other access
is the host port's. -/
def step (s : State) : Host.Outcome State Fault Refusal :=
  match s.nextCommand with
  | some c =>
    match decode c with
    | .ok i => finishAccess s (exec i s.popHost)
    | .error _ => finishAccess s (.next s.popHost.issueIllegal)
  | none => .next s.hostStep

/-- The state in which the next step fetches the table word `w` of `nbits` bits: the host's next access writes it to CMD. Log 8. -/
def State.withFetchWord (s : State) (nbits w : Nat) : State := s.withCommand nbits w

end Sys2Proof.Machine
end

