-- ==== Sys2Proof/Machine/HostProcedures.lean ====
section
/-! DEFINITION. The duty of the host (46_host_procedures.md): Normalise, UTF-8, Pad, Load and the entry point digest(). Pure
functions beside the machine; they make lists of host accesses and read replies (log 16). -/

namespace Sys2Proof.Machine

/-- The input of `digest` (R201): absent, text as code points, raw bytes, or any other shape. -/
inductive Input where
  | absent
  | text (points : List Nat)
  | bytes (m : List Byte)
  | other
  deriving DecidableEq, Repr

/-- Why a host procedure has no result. None of them touches CORE. -/
inductive HostError where
  /-- R201 (d), R225: the input is neither absent, text nor bytes. -/
  | unsupportedInputType
  /-- R202, U5: a code point that is no Unicode scalar value, under the choice `fail`. -/
  | badCodePoint
  /-- R206, D30, U6: the padded message does not fit into MSG. -/
  | tooLong
  deriving DecidableEq, Repr

/-- A Unicode scalar value: at most 0x10FFFF and no surrogate (R202). -/
def isScalar (u : Nat) : Bool := decide (u < 0xD800) || (decide (0xDFFF < u) && decide (u ≤ 0x10FFFF))

/-- The bit field `u[lo+n-1 : lo]` of a code point, added to the leading bits of a UTF-8 byte (R202). -/
def utf8Byte (lead u lo n : Nat) : Byte := BitVec.ofNat 8 (lead + u / 2 ^ lo % 2 ^ n)

/-- The table of R202 (general knowledge G4, log 14). -/
def utf8Scalar (u : Nat) : List Byte :=
  if u ≤ 0x7F then [BitVec.ofNat 8 u]
  else if u ≤ 0x7FF then [utf8Byte 0xC0 u 6 5, utf8Byte 0x80 u 0 6]
  else if u ≤ 0xFFFF then [utf8Byte 0xE0 u 12 4, utf8Byte 0x80 u 6 6, utf8Byte 0x80 u 0 6]
  else [utf8Byte 0xF0 u 18 3, utf8Byte 0x80 u 12 6, utf8Byte 0x80 u 6 6, utf8Byte 0x80 u 0 6]

/-- One code point, with the host's choice for one that is no scalar value (R202, D29, log 15). -/
def utf8Point (choice : Config.BadCodePoint) (u : Nat) : Except HostError (List Byte) :=
  if isScalar u then .ok (utf8Scalar u)
  else match choice with
    | .fail => .error .badCodePoint
    | .replace => .ok (utf8Scalar 0xFFFD)
    | .asScalar => .ok (utf8Scalar u)

/-- The encodings of the code points in order, no byte-order mark, no terminator (R202). -/
def utf8 (choice : Config.BadCodePoint) : List Nat → Except HostError (List Byte)
  | [] => .ok []
  | u :: us =>
    match utf8Point choice u, utf8 choice us with
    | .ok b, .ok bs => .ok (b ++ bs)
    | .error e, _ => .error e
    | .ok _, .error e => .error e

/-- `Normalise(input)` (R201); `none` is the absent input. -/
def normalise : Input → Except HostError (Option (List Byte))
  | .absent => .ok none
  | .text points =>
    match utf8 Config.badCodePoint points with
    | .ok m => .ok (some m)
    | .error e => .error e
  | .bytes m => .ok (some m)
  | .other => .error .unsupportedInputType

/-- The padded length `L = ceil((n + 9) / 64) * 64` (R203). -/
def paddedLength (n : Nat) : Nat := (n + 9 + 63) / 64 * 64

/-- The original bit length `8*n` as 8 bytes, most significant first, exact in 64 bits (R203, R205). -/
def lengthField (n : Nat) : List Byte :=
  (List.range 8).map fun i => (BitVec.ofNat 64 (8 * n)).extractLsb' (56 - 8 * i) 8

/-- `Pad(m)` (R203): the message, 0x80, zeros, the bit length. -/
def pad (m : List Byte) : List Byte :=
  m ++ [0x80#8] ++ List.replicate (paddedLength m.length - m.length - 9) 0#8 ++ lengthField m.length

/-- `Load(P)` (R206): every byte of the padded message, then LEN. -/
def load (p : List Byte) : List HostOp := writeBytes 0 p ++ [.regWrite 2 (BitVec.ofNat 32 p.length)]

/-- The accesses of R207 after `Pad`: Load, HASH, WAIT, then STATUS and OUTW[0..15]. -/
def digestScript (p : List Byte) : List HostOp :=
  load p ++ [.regWrite 0 0x09000000#32, .wait, .regRead 1] ++ (List.range 16).map fun j => .regRead (outReg + j)

/-- What `digest(input)` makes the host do (R207). -/
inductive HostPlan where
  /-- The result is `null`; CORE is not touched (R201 (a)). -/
  | null
  /-- The host fails before CORE is touched (R201 (d), R225, R206). -/
  | fails (e : HostError)
  /-- The accesses to make. -/
  | run (ops : List HostOp)
  deriving DecidableEq, Repr

/-- `digest(input)` up to the accesses (R207, R206). -/
def digestPlan (input : Input) : HostPlan :=
  match normalise input with
  | .error e => .fails e
  | .ok none => .null
  | .ok (some m) => if Config.msgBytes < (pad m).length then .fails .tooLong else .run (digestScript (pad m))

/-- The four characters of a word of OUTW, most significant byte first (R26, R66). -/
def wordChars (x : Word) : List Byte := [byteOf x 0, byteOf x 1, byteOf x 2, byteOf x 3]

/-- The words of register replies, in order. -/
def replyWords : List Reply → List Word
  | [] => []
  | .reg _ v :: rs => v :: replyWords rs
  | .msg _ _ :: rs => replyWords rs

/-- The result of `digest` from the replies of its run (R207): the last 17 are STATUS and OUTW[0..15]; with ERR = 1 it fails (`none`),
else it is the string of the 64 characters. -/
def digestAnswer (replies : List Reply) : Option (List Byte) :=
  match replyWords (replies.drop (replies.length - 17)) with
  | status :: outw => if status.getLsbD 2 then none else some (outw.flatMap wordChars)
  | [] => none

end Sys2Proof.Machine
end

