-- ==== Sys2Proof/Machine/Script.lean ====
section
/-! DEFINITION. The host script (R96): its statements and the accesses each stands for. -/

namespace Sys2Proof.Machine

/-- The registers a script can name in `RD name` (R96). -/
inductive RegName where
  | status
  | len
  | cap
  | h (j : Fin 8)
  | v (j : Fin 8)
  | w (t : Fin 64)
  | k (t : Fin 64)
  | outw (j : Fin 16)
  | lut (b : Fin 256)
  deriving DecidableEq, Repr

/-- The number of a named register (R32). -/
def RegName.number : RegName → Nat
  | .status => 1
  | .len => 2
  | .cap => 3
  | .h j => hReg + j
  | .v j => vReg + j
  | .w t => wReg + t
  | .k t => kReg + t
  | .outw j => outReg + j
  | .lut b => lutReg + b

/-- A statement of the host script (R96). -/
inductive Stmt where
  /-- One of the ten mnemonics. -/
  | command (i : Instr)
  /-- `WRLEN n`. -/
  | wrlen (n : Word)
  /-- `WRMSG a, b0 b1 ... bk`. -/
  | wrmsg (a : Nat) (bs : List Byte)
  /-- `RD name`. -/
  | rd (name : RegName)
  /-- `WAIT`. -/
  | wait
  /-- `RESET`. -/
  | reset
  deriving DecidableEq, Repr

/-- The accesses a statement stands for (R96). -/
def Stmt.ops : Stmt → List HostOp
  | .command i => [.regWrite 0 (encode i)]
  | .wrlen n => [.regWrite 2 n]
  | .wrmsg a bs => writeBytes a bs
  | .rd name => [.regRead name.number]
  | .wait => [.wait]
  | .reset => [.reset]

/-- The accesses of a whole script, in order. -/
def scriptOps (p : List Stmt) : List HostOp := p.flatMap Stmt.ops

end Sys2Proof.Machine
end

