-- ==== Sys2Proof/Safety.lean ====
section
/-! DEFINITION. The terms claims are stated in: when a command is accepted and what its acceptance leaves, what stays the same, the
invariant of the machine, agreement on specified values, and the compression of a block as a pure function of its bytes. -/

namespace Sys2Proof.Machine

/-- A command word written now goes on to cases 3 to 5 of R130: no command executes and no fault is recorded (R230, R256). -/
def State.Ready (s : State) : Prop := s.busy = false ∧ s.err = false

/-- H and its marks are the same. -/
def SameH (s t : State) : Prop := t.h = s.h ∧ t.hKnown = s.hKnown

/-- V and its marks are the same. -/
def SameV (s t : State) : Prop := t.v = s.v ∧ t.vKnown = s.vKnown

/-- W and its marks are the same. -/
def SameW (s t : State) : Prop := t.w = s.w ∧ t.wKnown = s.wKnown

/-- OUT and its marks are the same. -/
def SameOut (s t : State) : Prop := t.out = s.out ∧ t.outKnown = s.outKnown

/-- LEN and every byte of MSG are the same. -/
def SameMessage (s t : State) : Prop := t.len = s.len ∧ ∀ a, Mem.find t.msg a = Mem.find s.msg a

/-- STATUS.ERR and STATUS.ERRCODE are the same. -/
def SameFault (s t : State) : Prop := t.err = s.err ∧ t.errCode = s.errCode

/-- The host's script and the replies it has got are the same. -/
def SameHost (s t : State) : Prop := t.host = s.host ∧ t.replies = s.replies

/-- What the acceptance of command `i` in state `s` leaves of the protocol (R130 case 5, R131): the next entry of `windows` is used up;
with BUSY_STEPS 0 the command has completed (BUSY 0, DONE 1), else it is BUSY with that many accesses to come and DONE is 0; the next
draw is fresh. -/
def Opened (i : Instr) (s t : State) : Prop :=
  t.windows = s.windows.tail ∧ t.draw = s.draw + 1 ∧
    (if s.nextWindow i = 0 then t.engine = .idle ∧ t.done = true
     else t.engine = .executing i (s.nextWindow i) ∧ t.done = false)

/-- The state in which a command has been turned away with the fault of code `code` (R130 cases 3 and 4, R227, R228): STATUS alone
differs. -/
def State.turnedAway (code : BitVec 4) (s : State) : State := { s with done := false, err := true, errCode := code }

/-- The state in which the host has got one more reply; the draw counter moves on with it (log 5, 8). -/
def State.withReply (s : State) (x : Reply) : State := { s with replies := s.replies ++ [x], draw := s.draw + 1 }

/-- The whole of block `blk` lies inside the padded message and the memory (R141). -/
def State.BlockInside (s : State) (blk : Nat) : Prop := 64 * (blk + 1) ≤ min s.len.toNat Config.msgBytes

/-- The host has written the bytes `a .. a+n-1` of MSG since reset, so they are specified (R38, R254). -/
def State.Written (s : State) (a n : Nat) : Prop := ∀ x, a ≤ x → x < a + n → (Mem.find s.msg x).isSome = true

/-- A character of `[0-9a-f]` (R25, R185). -/
def isHexChar (b : Byte) : Bool :=
  (decide (0x30 ≤ b.toNat) && decide (b.toNat ≤ 0x39)) || (decide (0x61 ≤ b.toNat) && decide (b.toNat ≤ 0x66))

/-- The invariant of the machine: the memory has its canonical form (R61); a fault is recorded exactly when its code is one of 1 to 4
(R227); BUSY and DONE are never both 1 (R31); a window names a real command and has an access to come (R131); a specified character
of OUT is a lowercase hexadecimal digit (R185). -/
structure State.Inv (s : State) : Prop where
  mem : Mem.wf s.msg
  code : s.errCode.toNat ≤ 4 ∧ (s.err = true ↔ s.errCode ≠ 0#4)
  busyDone : s.busy = true → s.done = false
  window : ∀ i n, s.engine = .executing i n → i.WellFormed ∧ 1 ≤ n
  alphabet : ∀ i : Fin 64, s.outKnown[i] = true → isHexChar s.out[i] = true

/-- Two vectors with the same marks agree on every marked place. -/
def AgreeOn {α : Type} {n : Nat} (k : Vector Bool n) (x y : Vector α n) : Prop :=
  ∀ (i : Nat) (hi : i < n), k[i] = true → x[i] = y[i]

/-- Two states that differ at most in what is unspecified (R33, R38, U1), in the draws and in the replies. -/
structure Agree (s t : State) : Prop where
  hKnown : t.hKnown = s.hKnown
  h : AgreeOn s.hKnown s.h t.h
  vKnown : t.vKnown = s.vKnown
  v : AgreeOn s.vKnown s.v t.v
  wKnown : t.wKnown = s.wKnown
  w : AgreeOn s.wKnown s.w t.w
  outKnown : t.outKnown = s.outKnown
  out : AgreeOn s.outKnown s.out t.out
  msg : t.msg = s.msg
  len : t.len = s.len
  done : t.done = s.done
  err : t.err = s.err
  errCode : t.errCode = s.errCode
  engine : t.engine = s.engine
  windows : t.windows = s.windows

/-- The schedule of a block as a function of the bytes at its addresses: 16 big-endian words, then R140 (R141, R142). -/
def blockSchedule (bytes : Nat → Byte) (blk : Nat) : Vector Word 64 :=
  expandWords (Vector.ofFn fun t =>
    if t.val < 16 then be32 (bytes (64 * blk + 4 * t)) (bytes (64 * blk + 4 * t + 1)) (bytes (64 * blk + 4 * t + 2))
      (bytes (64 * blk + 4 * t + 3))
    else 0#32)

/-- One application of the compression function: the new hash state from the old one and the block (R170). -/
def compressBlock (bytes : Nat → Byte) (blk : Nat) (h : Vector Word 8) : Vector Word 8 :=
  addWords h (rounds64 h (blockSchedule bytes blk))

/-- The hash state after the first `n` blocks, left to right from the IV (R171, R173). -/
def hashBlocks (bytes : Nat → Byte) : Nat → Vector Word 8
  | 0 => iv
  | n + 1 => compressBlock bytes n (hashBlocks bytes n)

/-- W and V after the blocks 0 .. n of the message in `s`, as the last of them leaves them, all specified (R143, R170, R171). -/
def LastBlock (s : State) (n : Nat) (t : State) : Prop :=
  t.w = blockSchedule s.msgByte n ∧ t.v = rounds64 (hashBlocks s.msgByte n) (blockSchedule s.msgByte n) ∧
    (∀ k : Fin 64, t.wKnown[k] = true) ∧ ∀ j : Fin 8, t.vKnown[j] = true

end Sys2Proof.Machine
end

