-- ==== Sys2Proof/Certificates/Slice0/Obligations.lean ====
section
/-! DEFINITION. The statements for the provers, each from the rules of spec/ its docstring names. -/

open Sys2Proof Sys2Proof.Machine

/-! ## Encoding -/

/-- R90, R91, R92: the decoder reads back every well-formed command, every block index included. -/
def Obligations.DecodeInvertsEncode : Prop := ∀ i : Instr, i.WellFormed → decode (encode i) = .ok i

/-- R90, R91, R93: a word that decodes is the encoding of the command it decodes to, and that command is well-formed. -/
def Obligations.EncodeInvertsDecode : Prop := ∀ (c : Word) (i : Instr), decode c = .ok i → i.WellFormed ∧ encode i = c

/-- R93: every word either matches exactly one row of R92, the row of the command it decodes to, or is illegal and matches none; the
rows are disjoint because their `op` values differ. -/
def Obligations.EveryWordMatchesOneRowOrIsIllegal : Prop :=
  (∀ c : Word,
    (∃ i r, decode c = .ok i ∧ opcodeTable.filter (·.matches c) = [r] ∧ r.mnemonic = mnemonicOf i) ∨
    ((∃ e, decode c = .error e) ∧ opcodeTable.filter (·.matches c) = [])) ∧
  (opcodeTable.map fun r => opField r.matchBits).Nodup

/-- R94: exactly the words of cases (a) and (b) are illegal. -/
def Obligations.IllegalWordsAreExactlyCasesAandB : Prop :=
  ∀ c : Word, (∃ e, decode c = .error e) ↔
    opField c ∉ [0x01#8, 0x02#8, 0x03#8, 0x04#8, 0x05#8, 0x06#8, 0x07#8, 0x08#8, 0x09#8, 0x0F#8] ∨
    (opField c ∈ [0x01#8, 0x03#8, 0x04#8, 0x05#8, 0x07#8, 0x08#8, 0x09#8, 0x0F#8] ∧ lowField c ≠ 0#24)

/-- R95: a format B word is legal whatever its block index, and a block that does not exist raises BlockRange (code 4), not
IllegalCommand. -/
def Obligations.AnyBlockIndexIsLegal : Prop :=
  ∀ (b : BitVec 24) (s : State), s.Ready →
    decode (0x02#8 ++ b) = .ok (.ldblk b.toNat) ∧ decode (0x06#8 ++ b) = .ok (.block b.toNat) ∧
    (¬ s.BlockInside b.toNat →
      (∃ t, exec (.ldblk b.toNat) s = .next t ∧ t.err = true ∧ t.errCode = 4#4) ∧
      (∃ t, exec (.block b.toNat) s = .next t ∧ t.err = true ∧ t.errCode = 4#4))

/-- R97: the worked encodings, legal and illegal. -/
def Obligations.WorkedEncodingsDecode : Prop :=
  encode .init = 0x01000000#32 ∧ decode 0x01000000#32 = .ok .init ∧
  encode (.ldblk 0) = 0x02000000#32 ∧ decode 0x02000000#32 = .ok (.ldblk 0) ∧
  encode (.ldblk 1) = 0x02000001#32 ∧ decode 0x02000001#32 = .ok (.ldblk 1) ∧
  encode .expand = 0x03000000#32 ∧ decode 0x03000000#32 = .ok .expand ∧
  encode .rounds = 0x04000000#32 ∧ decode 0x04000000#32 = .ok .rounds ∧
  encode .addh = 0x05000000#32 ∧ decode 0x05000000#32 = .ok .addh ∧
  encode (.block 2) = 0x06000002#32 ∧ decode 0x06000002#32 = .ok (.block 2) ∧
  encode (.block 16777215) = 0x06FFFFFF#32 ∧ decode 0x06FFFFFF#32 = .ok (.block 16777215) ∧
  encode .digest = 0x07000000#32 ∧ decode 0x07000000#32 = .ok .digest ∧
  encode .hex = 0x08000000#32 ∧ decode 0x08000000#32 = .ok .hex ∧
  encode .hash = 0x09000000#32 ∧ decode 0x09000000#32 = .ok .hash ∧
  encode .clrerr = 0x0F000000#32 ∧ decode 0x0F000000#32 = .ok .clrerr ∧
  decode 0x00000000#32 = .error (.unknownOpcode 0x00#8) ∧ decode 0x01000001#32 = .error (.nonzeroField 0x01#8) ∧
  decode 0x0A000000#32 = .error (.unknownOpcode 0x0A#8) ∧ decode 0xFFFFFFFF#32 = .error (.unknownOpcode 0xFF#8)

/-! ## Reset, the invariant, the step -/

/-- R38, R250: what the spec says of the state after reset. H, V, W, OUT and MSG are unspecified, which the model's marks say (log 3); the
values those fields hold are the model's choice (log 2) and are not stated here. -/
def Obligations.ResetLeavesControlStateZero : Prop :=
  State.reset.statusWord = 0#32 ∧ State.reset.len = 0#32 ∧ State.reset.readReg 0 = 0#32 ∧
  State.reset.readReg 3 = BitVec.ofNat 32 Config.msgBytes ∧ State.reset.engine = .idle ∧
  (∀ j : Fin 8, State.reset.hKnown[j] = false ∧ State.reset.vKnown[j] = false) ∧
  (∀ i : Fin 64, State.reset.wKnown[i] = false ∧ State.reset.outKnown[i] = false) ∧
  (∀ a, Mem.find State.reset.msg a = none)

/-- The invariant of `Obligations.StepKeepsInvariant` holds after reset. -/
def Obligations.ResetMeetsInvariant : Prop := State.reset.Inv

/-- Every step keeps the invariant: canonical memory (R61), STATUS.ERR with exactly the codes 1 to 4 (R227), never BUSY and DONE together
(R31), windows that end (R131), OUT over the alphabet `[0-9a-f]` (R185). -/
def Obligations.StepKeepsInvariant : Prop := ∀ s t : State, s.Inv → step s = .next t → t.Inv

/-- R226, R227: no step stops the machine; every fault is recorded in STATUS and the machine goes on. -/
def Obligations.StepAlwaysAnswersNext : Prop := ∀ s : State, ∃ t, step s = .next t

/-- R30, R130, R131: when the next host access writes a legal word to CMD, the step is `exec` of the decoded command after the access has
been taken from the script; made in a BUSY window, it also uses up one access of the window (log 9). -/
def Obligations.StepRunsDecodedCommand : Prop :=
  ∀ (s : State) (c : Word) (rest : List HostOp) (i : Instr),
    s.host = .regWrite 0 c :: rest → decode c = .ok i →
    ∃ t, exec i (s.withHost rest) = .next t ∧ step s = .next (if s.busy then t.tick else t)

/-- The word placed by `withFetchWord` is the one the very next step runs (log 8). -/
def Obligations.FetchWordIsTheNextCommand : Prop :=
  ∀ (s : State) (i : Instr), i.WellFormed → s.busy = false → step (s.withFetchWord 32 (encode i).toNat) = exec i s

/-- R94, R222: on a ready machine an illegal word raises IllegalCommand (code 2) and executes nothing. R130 cases 1 and 2, R229: with
ERR = 1 it changes nothing; in a BUSY window it raises BusyViolation (R223) instead and uses up one access of the window (log 9). -/
def Obligations.IllegalWordRaisesIllegalCommand : Prop :=
  ∀ (s : State) (c : Word) (rest : List HostOp) (e : Illegal),
    s.host = .regWrite 0 c :: rest → decode c = .error e →
    (s.Ready → step s = .next ((s.withHost rest).turnedAway 2#4)) ∧
    (s.busy = false → s.err = true → step s = .next (s.withHost rest)) ∧
    (s.busy = true → step s = .next ((s.withHost rest).raise .busyViolation).tick)

/-- R130 case 1, R223: a command written in the BUSY window, CLRERR included, is dropped and raises BusyViolation (code 3); the first
fault's code is kept (R227). -/
def Obligations.CommandInWindowIsDropped : Prop :=
  ∀ (i : Instr) (s : State), s.busy = true →
    exec i s = .next (if s.err then s else { s with err := true, errCode := 3#4 })

/-- R130 case 2, R230: with a fault recorded every command but CLRERR is dropped without any effect. -/
def Obligations.CommandWhileFaultedIsDropped : Prop :=
  ∀ (i : Instr) (s : State), s.busy = false → s.err = true → i ≠ .clrerr → exec i s = .next s

/-! ## The ten commands: result, frame and completion -/

/-- R132: INIT loads the IV of R24 into H and touches nothing else. -/
def Obligations.InitLoadsTheInitialHashValue : Prop :=
  ∀ s : State, s.Ready → ∃ t, exec .init s = .next t ∧
    t.h = #v[0x6a09e667#32, 0xbb67ae85#32, 0x3c6ef372#32, 0xa54ff53a#32,
             0x510e527f#32, 0x9b05688c#32, 0x1f83d9ab#32, 0x5be0cd19#32] ∧
    (∀ j : Fin 8, t.hKnown[j] = true) ∧
    SameV s t ∧ SameW s t ∧ SameOut s t ∧ SameMessage s t ∧ SameFault s t ∧ SameHost s t ∧ Opened .init s t

/-- R133, R231: CLRERR is accepted with or without a recorded fault, clears ERR and ERRCODE and restores nothing. -/
def Obligations.ClrerrClearsTheFault : Prop :=
  ∀ s : State, s.busy = false → ∃ t, exec .clrerr s = .next t ∧ t.err = false ∧ t.errCode = 0#4 ∧
    SameH s t ∧ SameV s t ∧ SameW s t ∧ SameOut s t ∧ SameMessage s t ∧ SameHost s t ∧ Opened .clrerr s t

/-- R141, R63: LDBLK loads the 16 big-endian words of the block into W[0..15] and touches nothing else. A word is specified when its four
bytes have been written (R38, U1). -/
def Obligations.LdblkLoadsSixteenBigEndianWords : Prop :=
  ∀ (blk : Nat) (s : State), s.Ready → s.BlockInside blk → ∃ t, exec (.ldblk blk) s = .next t ∧
    (∀ k : Fin 64, k.val < 16 →
      t.w[k].toNat = (s.msgByte (64 * blk + 4 * k)).toNat * 2 ^ 24 + (s.msgByte (64 * blk + 4 * k + 1)).toNat * 2 ^ 16 +
        (s.msgByte (64 * blk + 4 * k + 2)).toNat * 2 ^ 8 + (s.msgByte (64 * blk + 4 * k + 3)).toNat ∧
      (t.wKnown[k] = true ↔ s.Written (64 * blk + 4 * k) 4)) ∧
    (∀ k : Fin 64, 16 ≤ k.val → t.w[k] = s.w[k] ∧ t.wKnown[k] = s.wKnown[k]) ∧
    SameH s t ∧ SameV s t ∧ SameOut s t ∧ SameMessage s t ∧ SameFault s t ∧ SameHost s t ∧ Opened (.ldblk blk) s t

/-- R142, R140: EXPAND leaves W[0..15] and computes each W[t], 16 <= t <= 63, from four words of the new schedule: `x` is that schedule as the
engine reads it, W[0..15] as they read now and then the new words. A word is specified when its four sources are. -/
def Obligations.ExpandComputesTheSchedule : Prop :=
  ∀ s : State, s.Ready → ∃ t, exec .expand s = .next t ∧
    (∀ k : Fin 64, k.val < 16 → t.w[k] = s.w[k] ∧ t.wKnown[k] = s.wKnown[k]) ∧
    (∃ x : Nat → Word,
      (∀ k : Fin 64, k.val < 16 → x k = s.wView[k]) ∧ (∀ k : Fin 64, 16 ≤ k.val → x k = t.w[k]) ∧
      (∀ k, 16 ≤ k → k < 64 → x k = x (k - 16) + ssig0 (x (k - 15)) + x (k - 7) + ssig1 (x (k - 2)))) ∧
    (∀ (k : Nat) (lo : 16 ≤ k) (hi : k < 64),
      t.wKnown[k] = (t.wKnown[k - 16] && t.wKnown[k - 15] && t.wKnown[k - 7] && t.wKnown[k - 2])) ∧
    SameH s t ∧ SameV s t ∧ SameOut s t ∧ SameMessage s t ∧ SameFault s t ∧ SameHost s t ∧ Opened .expand s t

/-- R157, R156, R155: ROUNDS starts from H, applies 64 rounds in order, round i with K[i] and W[i], and leaves the result in V. A round
computes T1 and T2 from the eight old words, moves a, b, c and e, f, g one place down, and puts T1 + T2 into a and d + T1 into e. With
H and W specified all of V is. -/
def Obligations.RoundsRunsSixtyFourRounds : Prop :=
  ∀ s : State, s.Ready → ∃ t, exec .rounds s = .next t ∧
    (∃ x : Nat → Vector Word 8, x 0 = s.hView ∧
      (∀ i : Fin 64, ∃ t1 t2 : Word,
        t1 = (x i)[7] + bsig1 (x i)[4] + ch (x i)[4] (x i)[5] (x i)[6] + kConst[i] + s.wView[i] ∧
        t2 = bsig0 (x i)[0] + maj (x i)[0] (x i)[1] (x i)[2] ∧
        x (i + 1) = #v[t1 + t2, (x i)[0], (x i)[1], (x i)[2], (x i)[3] + t1, (x i)[4], (x i)[5], (x i)[6]]) ∧
      t.v = x 64) ∧
    ((∀ j : Fin 8, s.hKnown[j] = true) → (∀ k : Fin 64, s.wKnown[k] = true) → ∀ j : Fin 8, t.vKnown[j] = true) ∧
    SameH s t ∧ SameW s t ∧ SameOut s t ∧ SameMessage s t ∧ SameFault s t ∧ SameHost s t ∧ Opened .rounds s t

/-- R158: ADDH adds V[j] into H[j] modulo 2^32, pairing a with h0 and so on; a word is specified when both terms are. -/
def Obligations.AddhAddsWorkingVariables : Prop :=
  ∀ s : State, s.Ready → ∃ t, exec .addh s = .next t ∧
    (∀ j : Fin 8, t.h[j].toNat = (s.hView[j].toNat + s.vView[j].toNat) % 2 ^ 32 ∧
      t.hKnown[j] = (s.hKnown[j] && s.vKnown[j])) ∧
    SameV s t ∧ SameW s t ∧ SameOut s t ∧ SameMessage s t ∧ SameFault s t ∧ SameHost s t ∧ Opened .addh s t

/-- R170: BLOCK is accepted for a block that lies inside and touches neither OUT nor the message. Where the block's 64 bytes and H are
specified, it leaves the block's schedule in W, the 64 rounds' result in V and the block folded into H, all specified. -/
def Obligations.BlockFoldsOneBlock : Prop :=
  ∀ (blk : Nat) (s : State), s.Ready → s.BlockInside blk → ∃ t, exec (.block blk) s = .next t ∧
    (s.Written (64 * blk) 64 → (∀ j : Fin 8, s.hKnown[j] = true) →
      t.w = blockSchedule s.msgByte blk ∧ t.v = rounds64 s.h (blockSchedule s.msgByte blk) ∧
      t.h = compressBlock s.msgByte blk s.h ∧
      (∀ j : Fin 8, t.hKnown[j] = true ∧ t.vKnown[j] = true) ∧ (∀ k : Fin 64, t.wKnown[k] = true)) ∧
    SameOut s t ∧ SameMessage s t ∧ SameFault s t ∧ SameHost s t ∧ Opened (.block blk) s t

/-- R171, R173, R143: DIGEST is accepted when LEN is a multiple of 64 and at most MSG_BYTES, starts from the IV whatever H held and folds in
the LEN / 64 blocks left to right; with a block or more it leaves the schedule of the last block in W and the result of that block's
rounds in V; LEN = 0 leaves the IV, and V and W as they were. -/
def Obligations.DigestHashesThePaddedMessage : Prop :=
  ∀ s : State, s.Ready → s.len.toNat % 64 = 0 → s.len.toNat ≤ Config.msgBytes → ∃ t, exec .digest s = .next t ∧
    (s.Written 0 s.len.toNat → t.h = hashBlocks s.msgByte (s.len.toNat / 64) ∧ ∀ j : Fin 8, t.hKnown[j] = true) ∧
    (s.Written 0 s.len.toNat → ∀ n, s.len.toNat = 64 * (n + 1) → LastBlock s n t) ∧
    (s.len = 0#32 → t.h = iv ∧ SameV s t ∧ SameW s t) ∧
    SameOut s t ∧ SameMessage s t ∧ SameFault s t ∧ SameHost s t ∧ Opened .digest s t

/-- R186, R185, R25: HEX writes the 64 characters of H, character i being the code of the lowercase hexadecimal digit of nibble `i mod 8` of
word `H[i / 8]` counted from the most significant; a character is specified when its word is. -/
def Obligations.HexEncodesTheHashState : Prop :=
  ∀ s : State, s.Ready → ∃ t, exec .hex s = .next t ∧
    (∀ (i : Nat) (hi : i < 64),
      (∃ n, n = s.hView[i / 8].toNat / 2 ^ (28 - 4 * (i % 8)) % 16 ∧
        t.out[i].toNat = if n ≤ 9 then 0x30 + n else 0x61 + (n - 10)) ∧
      t.outKnown[i] = s.hKnown[i / 8]) ∧
    SameH s t ∧ SameV s t ∧ SameW s t ∧ SameMessage s t ∧ SameFault s t ∧ SameHost s t ∧ Opened .hex s t

/-- R187, R143: HASH is accepted under DIGEST's conditions, leaves in OUT the 64 characters of the digest it leaves in H, and W and V as
DIGEST leaves them. -/
def Obligations.HashLeavesTheDigestInHex : Prop :=
  ∀ s : State, s.Ready → s.len.toNat % 64 = 0 → s.len.toNat ≤ Config.msgBytes → ∃ t, exec .hash s = .next t ∧
    (s.Written 0 s.len.toNat →
      t.h = hashBlocks s.msgByte (s.len.toNat / 64) ∧ t.out = hexEncode t.h ∧
      (∀ j : Fin 8, t.hKnown[j] = true) ∧ ∀ i : Fin 64, t.outKnown[i] = true) ∧
    (s.Written 0 s.len.toNat → ∀ n, s.len.toNat = 64 * (n + 1) → LastBlock s n t) ∧
    (s.len = 0#32 → t.h = iv ∧ SameV s t ∧ SameW s t) ∧
    SameMessage s t ∧ SameFault s t ∧ SameHost s t ∧ Opened .hash s t

/-! ## Faults -/

/-- R224: LDBLK and BLOCK of a block beyond `min(LEN, MSG_BYTES)`, and DIGEST and HASH with `LEN mod 64 = 0` and `LEN > MSG_BYTES`, raise
BlockRange (code 4), and no command does in another case. -/
def Obligations.BlockRangeIsRaised : Prop :=
  ∀ s : State, s.Ready →
    (∀ blk, 64 * (blk + 1) > min s.len.toNat Config.msgBytes →
      exec (.ldblk blk) s = .next (s.turnedAway 4#4) ∧ exec (.block blk) s = .next (s.turnedAway 4#4)) ∧
    (s.len.toNat % 64 = 0 → s.len.toNat > Config.msgBytes →
      exec .digest s = .next (s.turnedAway 4#4) ∧ exec .hash s = .next (s.turnedAway 4#4)) ∧
    (∀ i t, exec i s = .next t → t.err = true → t.errCode = 4#4 →
      (∃ blk, (i = .ldblk blk ∨ i = .block blk) ∧ 64 * (blk + 1) > min s.len.toNat Config.msgBytes) ∨
      ((i = .digest ∨ i = .hash) ∧ s.len.toNat % 64 = 0 ∧ s.len.toNat > Config.msgBytes))

/-- R221, R229: DIGEST and HASH with `LEN mod 64 != 0` raise BufferInvariantViolation (code 1), whether or not LEN is also above MSG_BYTES;
no register other than STATUS changes, and no other command raises it. -/
def Obligations.BufferInvariantViolationIsRaisedFirst : Prop :=
  ∀ s : State, s.Ready →
    (s.len.toNat % 64 ≠ 0 → exec .digest s = .next (s.turnedAway 1#4) ∧ exec .hash s = .next (s.turnedAway 1#4)) ∧
    (∀ i t, exec i s = .next t → t.err = true → t.errCode = 1#4 → (i = .digest ∨ i = .hash) ∧ s.len.toNat % 64 ≠ 0)

/-- R228: faults are precise. A command that ends with a fault recorded where none was has changed STATUS alone: DONE is 0, ERR is 1 and
ERRCODE is BufferInvariantViolation's or BlockRange's. -/
def Obligations.FaultsArePrecise : Prop :=
  ∀ (i : Instr) (s t : State), s.Ready → exec i s = .next t → t.err = true →
    (t.errCode = 1#4 ∨ t.errCode = 4#4) ∧ t = s.turnedAway t.errCode

/-- R230: ERR is sticky. Only RESET, or CLRERR written with BUSY = 0, ends it. -/
def Obligations.OnlyClrerrOrResetClearsTheFault : Prop :=
  ∀ s t : State, s.err = true → step s = .next t → t.err = false →
    s.host.head? = some .reset ∨ (s.busy = false ∧ s.host.head? = some (.regWrite 0 0x0F000000#32))

/-- R227, R232: the first fault's code is kept as long as ERR is. -/
def Obligations.FirstFaultCodeIsKept : Prop :=
  ∀ s t : State, s.err = true → step s = .next t → t.err = true → t.errCode = s.errCode

/-! ## All commands -/

/-- No command writes the message space (R60, R61, R62) or LEN: MSG and LEN stand under 'Not touched' in the rule of each command (R132,
R133, R141, R142, R157, R158, R170, R171, R186, R187), and a command that is dropped or turned away changes STATUS alone (R130, R228). -/
def Obligations.NoCommandWritesTheMessage : Prop :=
  ∀ (i : Instr) (s t : State), exec i s = .next t → t.msg = s.msg ∧ t.len = s.len

/-- R20 to R22, R26, R260: H changes only by INIT, ADDH, BLOCK, DIGEST, HASH; V only by ROUNDS and its composites; W only by LDBLK, EXPAND
and their composites; OUT only by HEX and HASH. -/
def Obligations.EachRegisterHasItsWriters : Prop :=
  ∀ (i : Instr) (s t : State), exec i s = .next t →
    (SameH s t ∨ i = .init ∨ i = .addh ∨ (∃ b, i = .block b) ∨ i = .digest ∨ i = .hash) ∧
    (SameV s t ∨ i = .rounds ∨ (∃ b, i = .block b) ∨ i = .digest ∨ i = .hash) ∧
    (SameW s t ∨ (∃ b, i = .ldblk b) ∨ i = .expand ∨ (∃ b, i = .block b) ∨ i = .digest ∨ i = .hash) ∧
    (SameOut s t ∨ i = .hex ∨ i = .hash)

/-- R33, R38, U1 (the marks are the model's, log 3): no command lets an unspecified value reach a value marked specified. Two states that
differ only in what is unspecified, in the draws and in the replies still do so after the same command with the same BUSY_STEPS. -/
def Obligations.UnspecifiedNeverReachesSpecified : Prop :=
  ∀ (i : Instr) (s t s' t' : State), Agree s t → s.nextWindow i = t.nextWindow i → exec i s = .next s' → exec i t = .next t' →
    Agree s' t'

/-- R170: the end state of BLOCK is that of LDBLK, EXPAND, ROUNDS, ADDH, each completed (by WAIT) before the next is issued. -/
def Obligations.BlockEqualsItsFourPrimitives : Prop :=
  ∀ (blk : Nat) (s : State), s.Ready → s.BlockInside blk → s.Written (64 * blk) 64 → (∀ j : Fin 8, s.hKnown[j] = true) →
    ∃ t1 t2 t3 t4 u, exec (.ldblk blk) s = .next t1 ∧ exec .expand t1.complete = .next t2 ∧
      exec .rounds t2.complete = .next t3 ∧ exec .addh t3.complete = .next t4 ∧ exec (.block blk) s = .next u ∧
      SameH t4 u ∧ SameV t4 u ∧ SameW t4 u ∧ SameOut t4 u ∧ SameMessage t4 u ∧ SameFault t4 u

/-- R187: the end state of HASH is that of DIGEST, completed (by WAIT), then HEX. -/
def Obligations.HashEqualsDigestThenHex : Prop :=
  ∀ s : State, s.Ready → s.len.toNat % 64 = 0 → s.len.toNat ≤ Config.msgBytes → s.Written 0 s.len.toNat →
    ∃ t1 t2 u, exec .digest s = .next t1 ∧ exec .hex t1.complete = .next t2 ∧ exec .hash s = .next u ∧
      SameH t2 u ∧ SameV t2 u ∧ SameW t2 u ∧ SameOut t2 u ∧ SameMessage t2 u ∧ SameFault t2 u

/-- R174: the H that DIGEST leaves is a function of LEN and MSG[0..LEN-1] alone, whatever H, V, W, OUT, the rest of MSG and the past were. -/
def Obligations.DigestDependsOnTheMessageAlone : Prop :=
  ∀ s t : State, s.Ready → t.Ready → s.len = t.len → s.len.toNat % 64 = 0 → s.len.toNat ≤ Config.msgBytes →
    s.Written 0 s.len.toNat → (∀ a, a < s.len.toNat → Mem.find t.msg a = Mem.find s.msg a) →
    ∃ s' t', exec .digest s = .next s' ∧ exec .digest t = .next t' ∧ s'.h = t'.h ∧ s'.hKnown = t'.hKnown

/-! ## The host port -/

/-- R31: the fields of the word STATUS reads as. -/
def Obligations.StatusWordHasItsFields : Prop :=
  ∀ s : State, s.statusWord.getLsbD 0 = s.busy ∧ s.statusWord.getLsbD 1 = s.done ∧ s.statusWord.getLsbD 2 = s.err ∧
    s.statusWord.getLsbD 3 = false ∧ s.statusWord.extractLsb' 4 4 = s.errCode ∧ ∀ i, 8 ≤ i → s.statusWord.getLsbD i = false

/-- R32, R33, R30, R34: what each register number reads as with BUSY = 0; a register of H, V, W or OUT marked specified gives the value it
holds; CMD, reserved and undecoded numbers read 0. -/
def Obligations.RegisterMapReads : Prop :=
  ∀ s : State, s.busy = false →
    s.readReg 0 = 0#32 ∧ s.readReg 1 = s.statusWord ∧ s.readReg 2 = s.len ∧ s.readReg 3 = BitVec.ofNat 32 Config.msgBytes ∧
    (∀ j : Fin 8, s.hKnown[j] = true → s.readReg (8 + j) = s.h[j]) ∧
    (∀ j : Fin 8, s.vKnown[j] = true → s.readReg (16 + j) = s.v[j]) ∧
    (∀ (j : Nat) (hj : j < 16), s.outKnown[4 * j] = true → s.outKnown[4 * j + 1] = true → s.outKnown[4 * j + 2] = true →
      s.outKnown[4 * j + 3] = true → s.readReg (32 + j) = s.out[4 * j] ++ s.out[4 * j + 1] ++ s.out[4 * j + 2] ++ s.out[4 * j + 3]) ∧
    (∀ k : Fin 64, s.wKnown[k] = true → s.readReg (64 + k) = s.w[k]) ∧
    (∀ r, (4 ≤ r ∧ r < 8) ∨ (24 ≤ r ∧ r < 32) ∨ (48 ≤ r ∧ r < 64) ∨ (192 ≤ r ∧ r < 256) ∨ 512 ≤ r → s.readReg r = 0#32)

/-- R33, R253, R73: in the BUSY window STATUS, LEN, CAP, K and LUT still read truly, and so does MSG (R61); every register of H, V, OUTW and
W reads as a free value, whatever it holds (U2; the free value of the draw is the model's form of "unspecified", log 5). -/
def Obligations.WindowReadsOfControlAndConstants : Prop :=
  ∀ s : State, s.busy = true →
    s.readReg 1 = s.statusWord ∧ s.statusWord.getLsbD 0 = true ∧ s.readReg 2 = s.len ∧
    s.readReg 3 = BitVec.ofNat 32 Config.msgBytes ∧
    (∀ k : Fin 64, s.readReg (128 + k) = kConst[k]) ∧
    (∀ b : Fin 256, s.readReg (256 + b) = 0#16 ++ hexChar (b / 16) ++ hexChar (b % 16)) ∧
    (∀ a x, a < Config.msgBytes → Mem.find s.msg a = some x → s.readMsg a = x) ∧
    (∀ r, (8 ≤ r ∧ r < 24) ∨ (32 ≤ r ∧ r < 48) ∨ (64 ≤ r ∧ r < 128) → s.readReg r = Config.freeWord s.draw r)

/-- R40, R23, R25: after any run, faulting commands included, registers 128..191 read the 64 constants K, and register 256+b reads the
codes of the two lowercase hexadecimal digits of b, the high one in bits 15:8. -/
def Obligations.ConstantsNeverChange : Prop :=
  ∀ (n : Nat) (s t : State), core.run n s = .next t →
    ((List.range 64).map fun k => t.readReg (128 + k)) =
      [0x428a2f98#32, 0x71374491#32, 0xb5c0fbcf#32, 0xe9b5dba5#32, 0x3956c25b#32, 0x59f111f1#32, 0x923f82a4#32, 0xab1c5ed5#32] ++
      [0xd807aa98#32, 0x12835b01#32, 0x243185be#32, 0x550c7dc3#32, 0x72be5d74#32, 0x80deb1fe#32, 0x9bdc06a7#32, 0xc19bf174#32] ++
      [0xe49b69c1#32, 0xefbe4786#32, 0x0fc19dc6#32, 0x240ca1cc#32, 0x2de92c6f#32, 0x4a7484aa#32, 0x5cb0a9dc#32, 0x76f988da#32] ++
      [0x983e5152#32, 0xa831c66d#32, 0xb00327c8#32, 0xbf597fc7#32, 0xc6e00bf3#32, 0xd5a79147#32, 0x06ca6351#32, 0x14292967#32] ++
      [0x27b70a85#32, 0x2e1b2138#32, 0x4d2c6dfc#32, 0x53380d13#32, 0x650a7354#32, 0x766a0abb#32, 0x81c2c92e#32, 0x92722c85#32] ++
      [0xa2bfe8a1#32, 0xa81a664b#32, 0xc24b8b70#32, 0xc76c51a3#32, 0xd192e819#32, 0xd6990624#32, 0xf40e3585#32, 0x106aa070#32] ++
      [0x19a4c116#32, 0x1e376c08#32, 0x2748774c#32, 0x34b0bcb5#32, 0x391c0cb3#32, 0x4ed8aa4a#32, 0x5b9cca4f#32, 0x682e6ff3#32] ++
      [0x748f82ee#32, 0x78a5636f#32, 0x84c87814#32, 0x8cc70208#32, 0x90befffa#32, 0xa4506ceb#32, 0xbef9a3f7#32, 0xc67178f2#32] ∧
    (∀ b : Fin 256, (t.readReg (256 + b)).toNat =
      (if b.val / 16 ≤ 9 then 0x30 + b.val / 16 else 0x61 + (b.val / 16 - 10)) * 256 +
      (if b.val % 16 ≤ 9 then 0x30 + b.val % 16 else 0x61 + (b.val % 16 - 10))) ∧
    (∀ r, 128 ≤ r → r < 192 ∨ (256 ≤ r ∧ r < 512) → t.readReg r = s.readReg r)

/-- R33, R69: reads have no side effect: but for the reply, the script, the draw counter (logs 5, 8) and, in a window, the access of it
that is used up (the model's choice, log 9, DESIGN CHOICE), the state is the same. -/
def Obligations.ReadsHaveNoSideEffect : Prop :=
  ∀ (s : State) (rest : List HostOp),
    (∀ r, s.host = .regRead r :: rest → step s = .next
      (let t := (s.withHost rest).withReply (.reg r (s.readReg r))
       if s.busy then t.tick else t)) ∧
    (∀ a, s.host = .msgRead a :: rest → step s = .next
      (let t := (s.withHost rest).withReply (.msg a (s.readMsg a))
       if s.busy then t.tick else t))

/-- R28, R34: with BUSY = 0 a write to LEN stores any value, which reads back; a write to a read-only, reserved or undecoded register
changes nothing and raises nothing, BUSY or not; made in a BUSY window it uses up one access of the window, the last of which completes
the command (log 9). -/
def Obligations.RegisterWritesStoreOnlyLen : Prop :=
  ∀ (s : State) (rest : List HostOp) (v : Word),
    (s.host = .regWrite 2 v :: rest → s.busy = false →
      ∃ t, step s = .next t ∧ t = { s.withHost rest with len := v } ∧ t.readReg 2 = v) ∧
    (∀ r, r ≠ 0 → r ≠ 2 → s.host = .regWrite r v :: rest →
      step s = .next (if s.busy then (s.withHost rest).tick else (s.withHost rest)))

/-- R61: with BUSY = 0 a write below MSG_BYTES stores the byte, which reads back, and leaves every other byte and all else. A write at or
above MSG_BYTES is dropped without a fault, in a BUSY window too (R223, R226; that R61's BusyViolation is for addresses below MSG_BYTES is
the model's reading, log 17), where it uses up one access of the window (log 9). -/
def Obligations.MessageWriteStoresOneByte : Prop :=
  ∀ (s : State) (rest : List HostOp) (a : Nat) (b : Byte), s.host = .msgWrite a b :: rest →
    (s.busy = false → a < Config.msgBytes → ∃ t, step s = .next t ∧ t.readMsg a = b ∧
      Mem.find t.msg a = some b ∧ (∀ x, x ≠ a → Mem.find t.msg x = Mem.find s.msg x) ∧
      t = { s.withHost rest with msg := t.msg }) ∧
    (Config.msgBytes ≤ a →
      step s = .next (if s.busy then (s.withHost rest).tick else (s.withHost rest)))

/-- R223, R74: in the BUSY window a write to LEN, or to a MSG byte below MSG_BYTES, is dropped and raises BusyViolation (code 3,
recorded only if no fault was recorded). That the write also uses up one access of the window, the last of which completes the command,
is the model's choice of how a window is counted (U4, R131; log 9, DESIGN CHOICE). -/
def Obligations.HostWritesInWindowAreDropped : Prop :=
  ∀ (s : State) (rest : List HostOp) (a : Nat) (b : Byte) (v : Word), s.busy = true →
    (s.host = .regWrite 2 v :: rest ∨ (s.host = .msgWrite a b :: rest ∧ a < Config.msgBytes)) →
    step s = .next (({ s.withHost rest with err := true, errCode := if s.err then s.errCode else 3#4 } : State).tick)

/-- R96, R75: WAIT reads STATUS; it is done when BUSY is 0, and stays the next statement while BUSY is 1 (the reply is the model's record,
logs 8 and 10), where each poll uses up one access of the window (the model's choice, log 9, DESIGN CHOICE). -/
def Obligations.WaitPollsUntilIdle : Prop :=
  ∀ (s : State) (rest : List HostOp), s.host = .wait :: rest →
    (s.busy = false → step s = .next ((s.withHost rest).withReply (.reg 1 s.statusWord))) ∧
    (s.busy = true → step s = .next (s.withReply (.reg 1 s.statusWord)).tick)

/-- R131: whatever the host does in a BUSY window short of RESET, a step in it changes no register, not the message and not LEN (R74), so
the state at completion is the one the command left. The list of coming BUSY_STEPS, the model's own (log 6), stays too. -/
def Obligations.WindowKeepsTheResult : Prop :=
  ∀ s t : State, s.busy = true → s.host.head? ≠ some .reset → step s = .next t →
    SameH s t ∧ SameV s t ∧ SameW s t ∧ SameOut s t ∧ t.msg = s.msg ∧ t.len = s.len ∧ t.windows = s.windows

/-- R131, R263: every accepted command completes after finitely many steps: a window of n accesses is over after n steps, unless RESET
has abandoned it before (that a window is counted in accesses is the model's choice, log 9, DESIGN CHOICE). -/
def Obligations.EveryWindowEnds : Prop :=
  ∀ (s : State) (i : Instr) (n : Nat), s.engine = .executing i n →
    ∃ k t, k ≤ max n 1 ∧ core.run k s = .next t ∧ t.engine = .idle ∧
      ((∀ op ∈ s.host, op ≠ .reset) → k = max n 1 ∧ t.done = true)

/-- R250, R252, R38: RESET, in a window too, leaves STATUS and LEN zero, no command executing, H, V, W, OUT and MSG unspecified. What the host
has planned and learnt stays (log 11). -/
def Obligations.ResetEventAbandonsEverything : Prop :=
  ∀ (s : State) (rest : List HostOp), s.host = .reset :: rest → ∃ t, step s = .next t ∧
    t.statusWord = 0#32 ∧ t.len = 0#32 ∧ t.engine = .idle ∧ t.host = rest ∧ t.replies = s.replies ∧
    (∀ j : Fin 8, t.hKnown[j] = false ∧ t.vKnown[j] = false) ∧
    (∀ i : Fin 64, t.wKnown[i] = false ∧ t.outKnown[i] = false) ∧ (∀ a, Mem.find t.msg a = none)

/-! ## The host procedures -/

/-- R203: every byte of `Pad(m)`, with the padded length `ceil((n + 9) / 64) * 64`. -/
def Obligations.PadHasTheStatedBytes : Prop :=
  ∀ m : List Byte, (pad m).length = paddedLength m.length ∧
    (∀ i, i < m.length → (pad m)[i]? = m[i]?) ∧ (pad m)[m.length]? = some 0x80#8 ∧
    (∀ i, m.length + 1 ≤ i → i + 9 ≤ paddedLength m.length → (pad m)[i]? = some 0x00#8) ∧
    (∀ i, i ≤ 7 → (pad m)[paddedLength m.length - 8 + i]? =
      some (BitVec.ofNat 8 (8 * m.length % 2 ^ 64 / 2 ^ (8 * (7 - i)))))

/-- R204: the invariants of `Pad`: a multiple of 64, at least n + 9 and at most n + 72, at least 64; `(55 - n) mod 64` zero bytes between
0x80 and the length field. -/
def Obligations.PadMeetsItsInvariants : Prop :=
  ∀ m : List Byte, (pad m).length % 64 = 0 ∧ m.length + 9 ≤ (pad m).length ∧ (pad m).length ≤ m.length + 72 ∧
    64 ≤ (pad m).length ∧ (((pad m).length - m.length - 9 : Nat) : Int) = (55 - (m.length : Int)) % 64

/-- R207, R204: with the length of a padded message that fits in LEN, and no fault recorded, HASH is accepted: it raises nothing. -/
def Obligations.HashOfAPaddedMessageNeverFaults : Prop :=
  ∀ (m : List Byte) (s : State), s.Ready → (pad m).length ≤ Config.msgBytes → s.len = BitVec.ofNat 32 (pad m).length →
    ∃ t, exec .hash s = .next t ∧ t.err = false ∧ Opened .hash s t

/-- R210: text and its UTF-8 bytes make the host do the same; the absent input is `null` and any other shape fails before CORE is
touched (R201, R225). -/
def Obligations.TextAndItsBytesAreTheSameInput : Prop :=
  (∀ (points : List Nat) (m : List Byte), utf8 Config.badCodePoint points = .ok m →
    digestPlan (.text points) = digestPlan (.bytes m)) ∧
  digestPlan .absent = .null ∧ digestPlan .other = .fails .unsupportedInputType

/-- R206: with BUSY = 0, running `Load(P)` puts every byte of P into MSG from address 0 and its length into LEN, and nothing else changes:
the other bytes of MSG stay (R259). -/
def Obligations.LoadPutsThePaddedMessage : Prop :=
  ∀ (p : List Byte) (s : State) (rest : List HostOp), s.busy = false → p.length ≤ Config.msgBytes → s.host = load p ++ rest →
    ∃ t, core.run (p.length + 1) s = .next t ∧ t.len = BitVec.ofNat 32 p.length ∧
      (∀ a, a < p.length → Mem.find t.msg a = p[a]?) ∧ (∀ a, p.length ≤ a → Mem.find t.msg a = Mem.find s.msg a) ∧
      t = { s.withHost rest with len := t.len, msg := t.msg }

/-- R207, R173, R185: the accesses of `digest` on any message that fits, from any ready state and whatever BUSY_STEPS the HASH takes, end with
replies from which the host reads the 64 characters of the SHA-256 of the padded message. -/
def Obligations.DigestProcedureReturnsTheDigest : Prop :=
  ∀ (m : List Byte) (s : State), s.Ready → (pad m).length ≤ Config.msgBytes → s.host = digestScript (pad m) →
    ∃ k t, core.run k s = .next t ∧ t.host = [] ∧
      digestAnswer t.replies =
        some (hexEncode (hashBlocks (fun a => (pad m).getD a 0#8) ((pad m).length / 64))).toList

/-! ## The datapath -/

/-- R110: addition modulo 2^32, its laws and its corner cases. -/
def Obligations.AdditionIsModulo : Prop :=
  (∀ x y : Word, (add32 x y).toNat = (x.toNat + y.toNat) % 2 ^ 32) ∧ (∀ x y : Word, add32 x y = add32 y x) ∧
  (∀ x y z : Word, add32 (add32 x y) z = add32 x (add32 y z)) ∧ (∀ x : Word, add32 x 0#32 = x) ∧
  add32 0xffffffff#32 0x00000001#32 = 0#32 ∧ add32 0x80000000#32 0x80000000#32 = 0#32 ∧
  add32 0xfffffffe#32 0x00000003#32 = 1#32

/-- R112, R113: the logical shift and the rotation, by value and by bit, with their worked values. -/
def Obligations.ShiftAndRotateByBits : Prop :=
  (∀ (x : Word) (n : Nat), (shr x n).toNat = x.toNat / 2 ^ n) ∧
  (∀ (x : Word) (n : Nat), 0 < n → n < 32 →
    (rotr x n).toNat = (x.toNat / 2 ^ n + x.toNat * 2 ^ (32 - n)) % 2 ^ 32 ∧
    (∀ i, i < 32 → (rotr x n).getLsbD i = x.getLsbD ((i + n) % 32)) ∧
    rotr 0xffffffff#32 n = 0xffffffff#32 ∧ rotr 0#32 n = 0#32) ∧
  shr 0xffffffff#32 3 = 0x1fffffff#32 ∧ shr 0x80000000#32 10 = 0x00200000#32 ∧ rotr 1#32 1 = 0x80000000#32 ∧
  rotr 1#32 7 = 0x02000000#32 ∧ rotr 0x12345678#32 7 = 0xf02468ac#32

/-- R114, R115, R116, R117: the four sigma functions as rotations and shifts, with all their worked values. -/
def Obligations.SigmaFunctions : Prop :=
  (∀ x : Word, ssig0 x = rotr x 7 ^^^ rotr x 18 ^^^ shr x 3) ∧
  (∀ x : Word, ssig1 x = rotr x 17 ^^^ rotr x 19 ^^^ shr x 10) ∧
  (∀ x : Word, bsig0 x = rotr x 2 ^^^ rotr x 13 ^^^ rotr x 22) ∧
  (∀ x : Word, bsig1 x = rotr x 6 ^^^ rotr x 11 ^^^ rotr x 25) ∧
  ssig0 0#32 = 0#32 ∧ ssig0 0x00000001#32 = 0x02004000#32 ∧ ssig0 0x80000000#32 = 0x11002000#32 ∧
  ssig0 0xffffffff#32 = 0x1fffffff#32 ∧ ssig0 0x12345678#32 = 0xe7fce6ee#32 ∧
  ssig1 0#32 = 0#32 ∧ ssig1 0x00000001#32 = 0x0000a000#32 ∧ ssig1 0x80000000#32 = 0x00205000#32 ∧
  ssig1 0xffffffff#32 = 0x003fffff#32 ∧ ssig1 0x12345678#32 = 0xa1f78649#32 ∧
  bsig0 0#32 = 0#32 ∧ bsig0 0x00000001#32 = 0x40080400#32 ∧ bsig0 0x80000000#32 = 0x20040200#32 ∧
  bsig0 0xffffffff#32 = 0xffffffff#32 ∧ bsig0 0x6a09e667#32 = 0xce20b47e#32 ∧
  bsig1 0#32 = 0#32 ∧ bsig1 0x00000001#32 = 0x04200080#32 ∧ bsig1 0x80000000#32 = 0x02100040#32 ∧
  bsig1 0xffffffff#32 = 0xffffffff#32 ∧ bsig1 0x510e527f#32 = 0x3587272b#32

/-- R118, R119: the two forms of Ch, which chooses bit by bit; the two forms of Maj, which is the majority bit by bit and is symmetric;
with the worked values of both. -/
def Obligations.ChooseAndMajority : Prop :=
  (∀ e f g : Word, ch e f g = g ^^^ (e &&& (f ^^^ g)) ∧ ch e f g = (e &&& f) ^^^ (~~~e &&& g) ∧
    ∀ i, i < 32 → (ch e f g).getLsbD i = if e.getLsbD i then f.getLsbD i else g.getLsbD i) ∧
  (∀ a b c : Word, maj a b c = (a &&& b) ^^^ (c &&& (a ^^^ b)) ∧ maj a b c = (a &&& b) ^^^ (a &&& c) ^^^ (b &&& c) ∧
    maj a b c = maj b a c ∧ maj a b c = maj a c b ∧
    ∀ i, i < 32 → (maj a b c).getLsbD i = decide (2 ≤ (a.getLsbD i).toNat + (b.getLsbD i).toNat + (c.getLsbD i).toNat)) ∧
  ch 0#32 0#32 0#32 = 0#32 ∧ ch 0xffffffff#32 0x12345678#32 0x9abcdef0#32 = 0x12345678#32 ∧
  ch 0#32 0x12345678#32 0x9abcdef0#32 = 0x9abcdef0#32 ∧
  ch 0xf0f0f0f0#32 0xff00ff00#32 0x00ff00ff#32 = 0xf00ff00f#32 ∧
  ch 0x510e527f#32 0x9b05688c#32 0x1f83d9ab#32 = 0x1f85c98c#32 ∧
  maj 0#32 0#32 0#32 = 0#32 ∧ maj 0xffffffff#32 0x12345678#32 0x9abcdef0#32 = 0x9abcdef8#32 ∧
  maj 0#32 0x12345678#32 0x9abcdef0#32 = 0x12345670#32 ∧
  maj 0xf0f0f0f0#32 0xff00ff00#32 0x00ff00ff#32 = 0xf0f0f0f0#32 ∧
  maj 0x6a09e667#32 0xbb67ae85#32 0x3c6ef372#32 = 0x3a6fe667#32

/-- R142: EXPAND is a function of W[0..15] alone, repeating it changes nothing, and all-zero W[0..15] gives an all-zero schedule. -/
def Obligations.ScheduleIsAFunctionOfSixteenWords : Prop :=
  (∀ x y : Vector Word 64, (∀ (k : Nat) (hk : k < 16), x[k] = y[k]) → expandWords x = expandWords y) ∧
  (∀ x : Vector Word 64, expandWords (expandWords x) = expandWords x) ∧
  (∀ x : Vector Word 64, (∀ (k : Nat) (hk : k < 16), x[k] = 0#32) → ∀ k : Fin 64, (expandWords x)[k] = 0#32)

/-- R185, R65, R121: a word is its four bytes, most significant first; HexEncode gives 64 characters of `[0-9a-f]`, and no two hash states
give the same characters. -/
def Obligations.HexEncodeIsLowercaseAndInjective : Prop :=
  (∀ x : Word, be32 (byteOf x 0) (byteOf x 1) (byteOf x 2) (byteOf x 3) = x) ∧
  (∀ (h : Vector Word 8) (i : Fin 64), isHexChar (hexEncode h)[i] = true) ∧
  (∀ g h : Vector Word 8, hexEncode g = hexEncode h → g = h)
end

