-- ==== Sys2Proof/Laws/Memory.lean ====
section
/-! SUPPORT. The parameter MSG_BYTES (R6) and the message memory: read after write, and the canonical form every memory operation
keeps. -/

namespace Sys2Proof

theorem Config.msgBlocks_pos : 1 ≤ Config.msgBlocks := by simp [Config.msgBlocks]

theorem Config.msgBlocks_le : Config.msgBlocks ≤ 2 ^ 24 := by
  have := Nat.mod_lt Config.freeMsgBlocks (y := 2 ^ 24) (by decide)
  simp only [Config.msgBlocks]; omega

/-- R6: MSG_BYTES is at least 64. -/
theorem Config.msgBytes_ge : 64 ≤ Config.msgBytes := by
  have := Config.msgBlocks_pos; simp only [Config.msgBytes]; omega

/-- R6: MSG_BYTES is at most 2^30. -/
theorem Config.msgBytes_le : Config.msgBytes ≤ 2 ^ 30 := by
  have := Config.msgBlocks_le; simp only [Config.msgBytes]; omega

/-- R6: MSG_BYTES is a multiple of 64. -/
theorem Config.msgBytes_mod : Config.msgBytes % 64 = 0 := by simp [Config.msgBytes]

namespace Machine

@[simp] theorem Mem.find_nil (a : Nat) : Mem.find [] a = none := rfl

/-- R61: a byte written reads back. -/
@[simp] theorem Mem.find_put_same (m : Mem) (a : Nat) (b : Byte) : Mem.find (Mem.put m a b) a = some b := by
  induction m with
  | nil => simp [Mem.put, Mem.find]
  | cons c m ih => unfold Mem.put; split_ifs <;> simp_all [Mem.find]

/-- R61: a write leaves every other byte. -/
theorem Mem.find_put_other (m : Mem) {a x : Nat} (b : Byte) (h : x ≠ a) : Mem.find (Mem.put m a b) x = Mem.find m x := by
  induction m with
  | nil => simp [Mem.put, Mem.find, h]
  | cons c m ih =>
    unfold Mem.put
    split_ifs with h1 h2
    · simp [Mem.find, h]
    · subst h2; simp [Mem.find, h]
    · simp [Mem.find, ih]

/-- A listed address comes from the write or was listed before. -/
theorem Mem.mem_put {m : Mem} {a : Nat} {b : Byte} {c : Host.Cell} (h : c ∈ Mem.put m a b) : c = (a, b) ∨ c ∈ m := by
  induction m with
  | nil => exact .inl (by simpa [Mem.put] using h)
  | cons d m ih =>
    unfold Mem.put at h
    split_ifs at h
    · simpa using h
    · rcases List.mem_cons.1 h with h | h
      · exact .inl h
      · exact .inr (List.mem_cons_of_mem _ h)
    · rcases List.mem_cons.1 h with h | h
      · exact .inr (h ▸ List.mem_cons_self)
      · exact (ih h).imp_right (List.mem_cons_of_mem _)

/-- A write keeps the addresses strictly rising. -/
theorem Mem.put_pairwise {m : Mem} (a : Nat) (b : Byte) (h : m.Pairwise fun x y => x.1 < y.1) :
    (Mem.put m a b).Pairwise fun x y => x.1 < y.1 := by
  induction m with
  | nil => simp [Mem.put]
  | cons c m ih =>
    rw [List.pairwise_cons] at h
    unfold Mem.put
    split_ifs with h1 h2
    · refine List.pairwise_cons.2 ⟨fun d hd => ?_, List.pairwise_cons.2 h⟩
      rcases List.mem_cons.1 hd with rfl | hd
      · exact h1
      · exact h1.trans (h.1 d hd)
    · exact List.pairwise_cons.2 ⟨fun d hd => h2 ▸ h.1 d hd, h.2⟩
    · refine List.pairwise_cons.2 ⟨fun d hd => ?_, ih h.2⟩
      rcases Mem.mem_put hd with rfl | hd
      · simp only; omega
      · exact h.1 d hd

/-- A write below MSG_BYTES keeps the canonical form. -/
theorem Mem.put_wf {m : Mem} {a : Nat} (b : Byte) (h : Mem.wf m) (ha : a < Config.msgBytes) : Mem.wf (Mem.put m a b) :=
  ⟨Mem.put_pairwise a b h.1, fun _ hc => (Mem.mem_put hc).elim (fun e => e ▸ ha) (h.2 _)⟩

/-- The memory after reset has the canonical form. -/
theorem State.reset_mem_wf : Mem.wf State.reset.msg := ⟨List.Pairwise.nil, by simp [State.reset]⟩

/-- A written byte reads as what was written. -/
theorem State.msgByte_of_find {s : State} {a : Nat} {b : Byte} (h : Mem.find s.msg a = some b) : s.msgByte a = b := by
  simp [State.msgByte, h]

/-- The bytes read are the same in states with the same memory and draw. -/
theorem State.msgByte_congr' {s t : State} (hm : t.msg = s.msg) (hd : t.draw = s.draw) (a : Nat) : t.msgByte a = s.msgByte a := by
  unfold State.msgByte; rw [hm, hd]

/-- The bytes read depend on the draw only where nothing was written. -/
theorem State.msgByte_congr {s t : State} {a : Nat} (h : Mem.find t.msg a = Mem.find s.msg a)
    (hw : (Mem.find s.msg a).isSome = true) : t.msgByte a = s.msgByte a := by
  obtain ⟨b, hb⟩ := Option.isSome_iff_exists.1 hw
  rw [State.msgByte_of_find hb, State.msgByte_of_find (h.trans hb)]

end Machine
end Sys2Proof
end

