-- ==== Sys2Proof/Laws/Datapath.lean ====
section
/-! SUPPORT. One specification lemma per function of the datapath: what each place of a result is, with no unrolling. -/

namespace Sys2Proof.Machine

/-- Reading a vector with a default is reading it, inside its bounds. -/
theorem getD_eq {α : Type} {n : Nat} (x : Vector α n) {i : Nat} (h : i < n) (d : α) : x.getD i d = x[i] := by
  simp [Vector.getD, h]

@[simp] theorem addWords_getElem (h v : Vector Word 8) (j : Nat) (hj : j < 8) :
    (addWords h v)[j] = add32 h[j] v[j] := by
  unfold addWords; simp

@[simp] theorem addKnown_getElem (h v : Vector Bool 8) (j : Nat) (hj : j < 8) :
    (addKnown h v)[j] = (h[j] && v[j]) := by
  unfold addKnown; simp

/-- R185: each character of HexEncode. -/
@[simp] theorem hexEncode_getElem (h : Vector Word 8) (i : Nat) (hi : i < 64) : (hexEncode h)[i] = hexCharAt h i := by
  unfold hexEncode; simp

@[simp] theorem hexKnown_getElem (h : Vector Bool 8) (i : Nat) (hi : i < 64) :
    (hexKnown h)[i] = h[i / 8]'(by omega) := by
  unfold hexKnown; simp [Vector.getD, show i / 8 < 8 by omega]

/-! ## The schedule -/

/-- R140 with the indices in bounds. -/
theorem schedWord_eq (w : Vector Word 64) (t : Nat) (lo : 16 ≤ t) (hi : t < 64) :
    schedWord w t = w[t - 16] + ssig0 w[t - 15] + w[t - 7] + ssig1 w[t - 2] := by
  simp only [schedWord, add32, getD_eq w (show t - 16 < 64 by omega), getD_eq w (show t - 15 < 64 by omega),
    getD_eq w (show t - 7 < 64 by omega), getD_eq w (show t - 2 < 64 by omega)]

theorem schedKnown_eq (k : Vector Bool 64) (t : Nat) (lo : 16 ≤ t) (hi : t < 64) :
    schedKnown k t = (k[t - 16] && k[t - 15] && k[t - 7] && k[t - 2]) := by
  simp only [schedKnown, getD_eq k (show t - 16 < 64 by omega), getD_eq k (show t - 15 < 64 by omega),
    getD_eq k (show t - 7 < 64 by omega), getD_eq k (show t - 2 < 64 by omega)]

/-- Computing one more word leaves the others. -/
theorem expandUpTo_succ_ne (w : Vector Word 64) (n k : Nat) (hk : k < 64) (h : k ≠ 16 + n) :
    (expandUpTo w (n + 1))[k] = (expandUpTo w n)[k] := by
  simp only [expandUpTo]; rw [Vector.getElem_setIfInBounds_ne]; exact fun e => h e.symm

theorem expandKnownUpTo_succ_ne (x : Vector Bool 64) (n k : Nat) (hk : k < 64) (h : k ≠ 16 + n) :
    (expandKnownUpTo x (n + 1))[k] = (expandKnownUpTo x n)[k] := by
  simp only [expandKnownUpTo]; rw [Vector.getElem_setIfInBounds_ne]; exact fun e => h e.symm

/-- A word once computed stays. -/
theorem expandUpTo_stable (w : Vector Word 64) (m n k : Nat) (hk : k < 64) (h : k < 16 + m) (hmn : m ≤ n) :
    (expandUpTo w n)[k] = (expandUpTo w m)[k] := by
  induction n, hmn using Nat.le_induction with
  | base => rfl
  | succ n hn ih => rw [expandUpTo_succ_ne _ _ _ _ (by omega), ih]

theorem expandKnownUpTo_stable (x : Vector Bool 64) (m n k : Nat) (hk : k < 64) (h : k < 16 + m) (hmn : m ≤ n) :
    (expandKnownUpTo x n)[k] = (expandKnownUpTo x m)[k] := by
  induction n, hmn using Nat.le_induction with
  | base => rfl
  | succ n hn ih => rw [expandKnownUpTo_succ_ne _ _ _ _ (by omega), ih]

/-- R142: W[0..15] keep the block's words. -/
theorem expandWords_low (w : Vector Word 64) (k : Nat) (hk : k < 16) : (expandWords w)[k] = w[k] := by
  unfold expandWords; exact expandUpTo_stable w 0 48 k (by omega) (by omega) (by omega)

theorem expandKnown_low (x : Vector Bool 64) (k : Nat) (hk : k < 16) : (expandKnown x)[k] = x[k] := by
  unfold expandKnown; exact expandKnownUpTo_stable x 0 48 k (by omega) (by omega) (by omega)

/-- R140, R142: every later word is the sum of four words of the same schedule. -/
theorem expandWords_high (w : Vector Word 64) (t : Nat) (lo : 16 ≤ t) (hi : t < 64) :
    (expandWords w)[t] = (expandWords w)[t - 16] + ssig0 (expandWords w)[t - 15] + (expandWords w)[t - 7] +
      ssig1 (expandWords w)[t - 2] := by
  obtain ⟨m, rfl⟩ : ∃ m, t = 16 + m := ⟨t - 16, by omega⟩
  have own : (expandUpTo w 48)[16 + m] = schedWord (expandUpTo w m) (16 + m) := by
    rw [expandUpTo_stable w (m + 1) 48 _ hi (by omega) (by omega)]
    simp only [expandUpTo]; rw [Vector.getElem_setIfInBounds_self]
  unfold expandWords
  rw [own, schedWord_eq _ _ lo hi, expandUpTo_stable w m 48 (16 + m - 16) (by omega) (by omega) (by omega),
    expandUpTo_stable w m 48 (16 + m - 15) (by omega) (by omega) (by omega),
    expandUpTo_stable w m 48 (16 + m - 7) (by omega) (by omega) (by omega),
    expandUpTo_stable w m 48 (16 + m - 2) (by omega) (by omega) (by omega)]

theorem expandKnown_high (x : Vector Bool 64) (t : Nat) (lo : 16 ≤ t) (hi : t < 64) :
    (expandKnown x)[t] = ((expandKnown x)[t - 16] && (expandKnown x)[t - 15] && (expandKnown x)[t - 7] &&
      (expandKnown x)[t - 2]) := by
  obtain ⟨m, rfl⟩ : ∃ m, t = 16 + m := ⟨t - 16, by omega⟩
  have own : (expandKnownUpTo x 48)[16 + m] = schedKnown (expandKnownUpTo x m) (16 + m) := by
    rw [expandKnownUpTo_stable x (m + 1) 48 _ hi (by omega) (by omega)]
    simp only [expandKnownUpTo]; rw [Vector.getElem_setIfInBounds_self]
  unfold expandKnown
  rw [own, schedKnown_eq _ _ lo hi, expandKnownUpTo_stable x m 48 (16 + m - 16) (by omega) (by omega) (by omega),
    expandKnownUpTo_stable x m 48 (16 + m - 15) (by omega) (by omega) (by omega),
    expandKnownUpTo_stable x m 48 (16 + m - 7) (by omega) (by omega) (by omega),
    expandKnownUpTo_stable x m 48 (16 + m - 2) (by omega) (by omega) (by omega)]

/-- A schedule is all specified when its first 16 words are. -/
theorem expandKnown_all (x : Vector Bool 64) (h : ∀ (k : Nat) (hk : k < 16), x[k] = true) (t : Nat) (ht : t < 64) :
    (expandKnown x)[t] = true := by
  induction t using Nat.strong_induction_on with
  | _ t ih =>
    by_cases lo : t < 16
    · rw [expandKnown_low x t lo, h t lo]
    · rw [expandKnown_high x t (by omega) ht, ih (t - 16) (by omega) (by omega), ih (t - 15) (by omega) (by omega),
        ih (t - 7) (by omega) (by omega), ih (t - 2) (by omega) (by omega)]
      rfl

/-! ## The rounds -/

/-- R155: a round moves every working variable but d and h one place down. -/
theorem roundStep_shift (v : Vector Word 8) (k w : Word) (i : Nat) (hi : i + 1 < 8) (h : i ≠ 3) :
    (roundStep v k w)[i + 1] = v[i] := by
  obtain rfl | rfl | rfl | rfl | rfl | rfl : i = 0 ∨ i = 1 ∨ i = 2 ∨ i = 4 ∨ i = 5 ∨ i = 6 := by omega
  all_goals rfl

theorem roundStepKnown_shift (v : Vector Bool 8) (w : Bool) (i : Nat) (hi : i + 1 < 8) (h : i ≠ 3) :
    (roundStepKnown v w)[i + 1] = v[i] := by
  obtain rfl | rfl | rfl | rfl | rfl | rfl : i = 0 ∨ i = 1 ∨ i = 2 ∨ i = 4 ∨ i = 5 ∨ i = 6 := by omega
  all_goals rfl

/-- Eight rounds' worth of marks: with everything specified, every round leaves everything specified (R155). -/
theorem roundsKnownUpTo_all (w : Vector Bool 64) (h : Vector Bool 8) (hw : ∀ (k : Nat) (hk : k < 64), w[k] = true)
    (hh : ∀ (j : Nat) (hj : j < 8), h[j] = true) (n : Nat) (hn : n ≤ 64) (j : Nat) (hj : j < 8) :
    (roundsKnownUpTo w h n)[j] = true := by
  induction n generalizing j with
  | zero => exact hh j hj
  | succ n ih =>
    have ih' : ∀ (j : Nat) (hj : j < 8), (roundsKnownUpTo w h n)[j] = true := fun j hj => ih (by omega) j hj
    simp only [roundsKnownUpTo, roundStepKnown, getD_eq w (show n < 64 by omega), hw n (by omega), ih' _ _]
    rcases j with _ | _ | _ | _ | _ | _ | _ | _ | j <;> first | rfl | omega

theorem rounds64Known_all (h : Vector Bool 8) (w : Vector Bool 64) (hh : ∀ (j : Nat) (hj : j < 8), h[j] = true)
    (hw : ∀ (k : Nat) (hk : k < 64), w[k] = true) (j : Nat) (hj : j < 8) : (rounds64Known h w)[j] = true := by
  unfold rounds64Known; exact roundsKnownUpTo_all w h hw hh 64 (by omega) j hj

/-! ## The lookup table -/

/-- R25: a lookup gives the characters of the two nibbles, the high one first. -/
theorem lut_eq (b : Byte) : lut b = (hexChar (b.toNat / 16), hexChar (b.toNat % 16)) := by
  have := b.isLt
  simp [lut, lutTable, lutEntry, this]

/-- R25: the code of a hexadecimal digit. -/
theorem hexChar_toNat (n : Nat) (h : n < 16) : (hexChar n).toNat = if n ≤ 9 then 0x30 + n else 0x61 + (n - 10) := by
  unfold hexChar; split <;> rw [BitVec.toNat_ofNat, Nat.mod_eq_of_lt (by omega)]

/-- Byte `k` of a word as a number (R7). -/
theorem byteOf_toNat (x : Word) (k : Nat) : (byteOf x k).toNat = x.toNat / 2 ^ (24 - 8 * k) % 2 ^ 8 := by
  simp [byteOf, BitVec.extractLsb'_toNat, Nat.shiftRight_eq_div_pow]

end Sys2Proof.Machine
end

