-- ==== Sys2Proof/Laws/State.lean ====
section
/-! SUPPORT. What each named update of State does to each field: the frame of every shared operation and of every command's
pseudocode, one lemma a field, tagged for simp. -/

namespace Sys2Proof.Machine

variable (s : State)

@[simp] theorem State.raise_h (f : Cause) : (s.raise f).h = s.h := by unfold State.raise; split <;> rfl
@[simp] theorem State.raise_hKnown (f : Cause) : (s.raise f).hKnown = s.hKnown := by unfold State.raise; split <;> rfl
@[simp] theorem State.raise_v (f : Cause) : (s.raise f).v = s.v := by unfold State.raise; split <;> rfl
@[simp] theorem State.raise_vKnown (f : Cause) : (s.raise f).vKnown = s.vKnown := by unfold State.raise; split <;> rfl
@[simp] theorem State.raise_w (f : Cause) : (s.raise f).w = s.w := by unfold State.raise; split <;> rfl
@[simp] theorem State.raise_wKnown (f : Cause) : (s.raise f).wKnown = s.wKnown := by unfold State.raise; split <;> rfl
@[simp] theorem State.raise_out (f : Cause) : (s.raise f).out = s.out := by unfold State.raise; split <;> rfl
@[simp] theorem State.raise_outKnown (f : Cause) : (s.raise f).outKnown = s.outKnown := by unfold State.raise; split <;> rfl
@[simp] theorem State.raise_msg (f : Cause) : (s.raise f).msg = s.msg := by unfold State.raise; split <;> rfl
@[simp] theorem State.raise_len (f : Cause) : (s.raise f).len = s.len := by unfold State.raise; split <;> rfl
@[simp] theorem State.raise_done (f : Cause) : (s.raise f).done = s.done := by unfold State.raise; split <;> rfl
@[simp] theorem State.raise_engine (f : Cause) : (s.raise f).engine = s.engine := by unfold State.raise; split <;> rfl
@[simp] theorem State.raise_windows (f : Cause) : (s.raise f).windows = s.windows := by unfold State.raise; split <;> rfl
@[simp] theorem State.raise_host (f : Cause) : (s.raise f).host = s.host := by unfold State.raise; split <;> rfl
@[simp] theorem State.raise_replies (f : Cause) : (s.raise f).replies = s.replies := by unfold State.raise; split <;> rfl
@[simp] theorem State.raise_draw (f : Cause) : (s.raise f).draw = s.draw := by unfold State.raise; split <;> rfl

@[simp] theorem State.raise_err (f : Cause) : (s.raise f).err = true := by
  unfold State.raise; split <;> simp_all

theorem State.raise_errCode (f : Cause) : (s.raise f).errCode = if s.err then s.errCode else f.code := by
  unfold State.raise; split <;> rfl

@[simp] theorem State.clearFault_h : (s.clearFault).h = s.h := rfl
@[simp] theorem State.clearFault_hKnown : (s.clearFault).hKnown = s.hKnown := rfl
@[simp] theorem State.clearFault_v : (s.clearFault).v = s.v := rfl
@[simp] theorem State.clearFault_vKnown : (s.clearFault).vKnown = s.vKnown := rfl
@[simp] theorem State.clearFault_w : (s.clearFault).w = s.w := rfl
@[simp] theorem State.clearFault_wKnown : (s.clearFault).wKnown = s.wKnown := rfl
@[simp] theorem State.clearFault_out : (s.clearFault).out = s.out := rfl
@[simp] theorem State.clearFault_outKnown : (s.clearFault).outKnown = s.outKnown := rfl
@[simp] theorem State.clearFault_msg : (s.clearFault).msg = s.msg := rfl
@[simp] theorem State.clearFault_len : (s.clearFault).len = s.len := rfl
@[simp] theorem State.clearFault_done : (s.clearFault).done = s.done := rfl
@[simp] theorem State.clearFault_engine : (s.clearFault).engine = s.engine := rfl
@[simp] theorem State.clearFault_windows : (s.clearFault).windows = s.windows := rfl
@[simp] theorem State.clearFault_host : (s.clearFault).host = s.host := rfl
@[simp] theorem State.clearFault_replies : (s.clearFault).replies = s.replies := rfl
@[simp] theorem State.clearFault_draw : (s.clearFault).draw = s.draw := rfl

@[simp] theorem State.clearFault_err : s.clearFault.err = false := rfl
@[simp] theorem State.clearFault_errCode : s.clearFault.errCode = 0#4 := rfl

@[simp] theorem State.dropDone_h : (s.dropDone).h = s.h := rfl
@[simp] theorem State.dropDone_hKnown : (s.dropDone).hKnown = s.hKnown := rfl
@[simp] theorem State.dropDone_v : (s.dropDone).v = s.v := rfl
@[simp] theorem State.dropDone_vKnown : (s.dropDone).vKnown = s.vKnown := rfl
@[simp] theorem State.dropDone_w : (s.dropDone).w = s.w := rfl
@[simp] theorem State.dropDone_wKnown : (s.dropDone).wKnown = s.wKnown := rfl
@[simp] theorem State.dropDone_out : (s.dropDone).out = s.out := rfl
@[simp] theorem State.dropDone_outKnown : (s.dropDone).outKnown = s.outKnown := rfl
@[simp] theorem State.dropDone_msg : (s.dropDone).msg = s.msg := rfl
@[simp] theorem State.dropDone_len : (s.dropDone).len = s.len := rfl
@[simp] theorem State.dropDone_err : (s.dropDone).err = s.err := rfl
@[simp] theorem State.dropDone_errCode : (s.dropDone).errCode = s.errCode := rfl
@[simp] theorem State.dropDone_engine : (s.dropDone).engine = s.engine := rfl
@[simp] theorem State.dropDone_windows : (s.dropDone).windows = s.windows := rfl
@[simp] theorem State.dropDone_host : (s.dropDone).host = s.host := rfl
@[simp] theorem State.dropDone_replies : (s.dropDone).replies = s.replies := rfl
@[simp] theorem State.dropDone_draw : (s.dropDone).draw = s.draw := rfl

@[simp] theorem State.dropDone_done : s.dropDone.done = false := rfl

@[simp] theorem State.complete_h : (s.complete).h = s.h := rfl
@[simp] theorem State.complete_hKnown : (s.complete).hKnown = s.hKnown := rfl
@[simp] theorem State.complete_v : (s.complete).v = s.v := rfl
@[simp] theorem State.complete_vKnown : (s.complete).vKnown = s.vKnown := rfl
@[simp] theorem State.complete_w : (s.complete).w = s.w := rfl
@[simp] theorem State.complete_wKnown : (s.complete).wKnown = s.wKnown := rfl
@[simp] theorem State.complete_out : (s.complete).out = s.out := rfl
@[simp] theorem State.complete_outKnown : (s.complete).outKnown = s.outKnown := rfl
@[simp] theorem State.complete_msg : (s.complete).msg = s.msg := rfl
@[simp] theorem State.complete_len : (s.complete).len = s.len := rfl
@[simp] theorem State.complete_err : (s.complete).err = s.err := rfl
@[simp] theorem State.complete_errCode : (s.complete).errCode = s.errCode := rfl
@[simp] theorem State.complete_windows : (s.complete).windows = s.windows := rfl
@[simp] theorem State.complete_host : (s.complete).host = s.host := rfl
@[simp] theorem State.complete_replies : (s.complete).replies = s.replies := rfl
@[simp] theorem State.complete_draw : (s.complete).draw = s.draw := rfl

@[simp] theorem State.complete_done : s.complete.done = true := rfl
@[simp] theorem State.complete_engine : s.complete.engine = .idle := rfl

@[simp] theorem State.openWindow_h (i : Instr) (n : Nat) : (s.openWindow i n).h = s.h := by unfold State.openWindow; split <;> rfl
@[simp] theorem State.openWindow_hKnown (i : Instr) (n : Nat) : (s.openWindow i n).hKnown = s.hKnown := by unfold State.openWindow; split <;> rfl
@[simp] theorem State.openWindow_v (i : Instr) (n : Nat) : (s.openWindow i n).v = s.v := by unfold State.openWindow; split <;> rfl
@[simp] theorem State.openWindow_vKnown (i : Instr) (n : Nat) : (s.openWindow i n).vKnown = s.vKnown := by unfold State.openWindow; split <;> rfl
@[simp] theorem State.openWindow_w (i : Instr) (n : Nat) : (s.openWindow i n).w = s.w := by unfold State.openWindow; split <;> rfl
@[simp] theorem State.openWindow_wKnown (i : Instr) (n : Nat) : (s.openWindow i n).wKnown = s.wKnown := by unfold State.openWindow; split <;> rfl
@[simp] theorem State.openWindow_out (i : Instr) (n : Nat) : (s.openWindow i n).out = s.out := by unfold State.openWindow; split <;> rfl
@[simp] theorem State.openWindow_outKnown (i : Instr) (n : Nat) : (s.openWindow i n).outKnown = s.outKnown := by unfold State.openWindow; split <;> rfl
@[simp] theorem State.openWindow_msg (i : Instr) (n : Nat) : (s.openWindow i n).msg = s.msg := by unfold State.openWindow; split <;> rfl
@[simp] theorem State.openWindow_len (i : Instr) (n : Nat) : (s.openWindow i n).len = s.len := by unfold State.openWindow; split <;> rfl
@[simp] theorem State.openWindow_err (i : Instr) (n : Nat) : (s.openWindow i n).err = s.err := by unfold State.openWindow; split <;> rfl
@[simp] theorem State.openWindow_errCode (i : Instr) (n : Nat) : (s.openWindow i n).errCode = s.errCode := by unfold State.openWindow; split <;> rfl
@[simp] theorem State.openWindow_host (i : Instr) (n : Nat) : (s.openWindow i n).host = s.host := by unfold State.openWindow; split <;> rfl
@[simp] theorem State.openWindow_replies (i : Instr) (n : Nat) : (s.openWindow i n).replies = s.replies := by unfold State.openWindow; split <;> rfl
@[simp] theorem State.openWindow_draw (i : Instr) (n : Nat) : (s.openWindow i n).draw = s.draw + 1 := by unfold State.openWindow; split <;> rfl

@[simp] theorem State.openWindow_windows (i : Instr) (n : Nat) : (s.openWindow i n).windows = s.windows.tail := by
  unfold State.openWindow; split <;> rfl

theorem State.openWindow_engine (i : Instr) (n : Nat) : (s.openWindow i n).engine = if n = 0 then .idle else .executing i n := by
  cases n <;> rfl

theorem State.openWindow_done (i : Instr) (n : Nat) : (s.openWindow i n).done = if n = 0 then true else s.done := by
  cases n <;> rfl

/-- BUSY_STEPS of a command is what `windows` gives for it. -/
theorem State.nextWindow_given {w : Window} {rest : List Window} (h : s.windows = w :: rest) : s.nextWindow w.cmd = w.steps := by
  simp [State.nextWindow, h]

/-- Where `windows` gives nothing for the command, BUSY_STEPS is the free value. -/
theorem State.nextWindow_free {i : Instr} (h : ∀ w, s.windows.head? = some w → w.cmd ≠ i) :
    s.nextWindow i = Config.busySteps i s := by
  unfold State.nextWindow; split
  · rfl
  · next w _ e => rw [if_neg (h w (by rw [e]; rfl))]

@[simp] theorem State.tick_h : (s.tick).h = s.h := by
  unfold State.tick; split
  · rfl
  · split <;> rfl
@[simp] theorem State.tick_hKnown : (s.tick).hKnown = s.hKnown := by
  unfold State.tick; split
  · rfl
  · split <;> rfl
@[simp] theorem State.tick_v : (s.tick).v = s.v := by
  unfold State.tick; split
  · rfl
  · split <;> rfl
@[simp] theorem State.tick_vKnown : (s.tick).vKnown = s.vKnown := by
  unfold State.tick; split
  · rfl
  · split <;> rfl
@[simp] theorem State.tick_w : (s.tick).w = s.w := by
  unfold State.tick; split
  · rfl
  · split <;> rfl
@[simp] theorem State.tick_wKnown : (s.tick).wKnown = s.wKnown := by
  unfold State.tick; split
  · rfl
  · split <;> rfl
@[simp] theorem State.tick_out : (s.tick).out = s.out := by
  unfold State.tick; split
  · rfl
  · split <;> rfl
@[simp] theorem State.tick_outKnown : (s.tick).outKnown = s.outKnown := by
  unfold State.tick; split
  · rfl
  · split <;> rfl
@[simp] theorem State.tick_msg : (s.tick).msg = s.msg := by
  unfold State.tick; split
  · rfl
  · split <;> rfl
@[simp] theorem State.tick_len : (s.tick).len = s.len := by
  unfold State.tick; split
  · rfl
  · split <;> rfl
@[simp] theorem State.tick_err : (s.tick).err = s.err := by
  unfold State.tick; split
  · rfl
  · split <;> rfl
@[simp] theorem State.tick_errCode : (s.tick).errCode = s.errCode := by
  unfold State.tick; split
  · rfl
  · split <;> rfl
@[simp] theorem State.tick_windows : (s.tick).windows = s.windows := by
  unfold State.tick; split
  · rfl
  · split <;> rfl
@[simp] theorem State.tick_host : (s.tick).host = s.host := by
  unfold State.tick; split
  · rfl
  · split <;> rfl
@[simp] theorem State.tick_replies : (s.tick).replies = s.replies := by
  unfold State.tick; split
  · rfl
  · split <;> rfl
@[simp] theorem State.tick_draw : (s.tick).draw = s.draw := by
  unfold State.tick; split
  · rfl
  · split <;> rfl

@[simp] theorem State.reply_h (x : Reply) : (s.reply x).h = s.h := rfl
@[simp] theorem State.reply_hKnown (x : Reply) : (s.reply x).hKnown = s.hKnown := rfl
@[simp] theorem State.reply_v (x : Reply) : (s.reply x).v = s.v := rfl
@[simp] theorem State.reply_vKnown (x : Reply) : (s.reply x).vKnown = s.vKnown := rfl
@[simp] theorem State.reply_w (x : Reply) : (s.reply x).w = s.w := rfl
@[simp] theorem State.reply_wKnown (x : Reply) : (s.reply x).wKnown = s.wKnown := rfl
@[simp] theorem State.reply_out (x : Reply) : (s.reply x).out = s.out := rfl
@[simp] theorem State.reply_outKnown (x : Reply) : (s.reply x).outKnown = s.outKnown := rfl
@[simp] theorem State.reply_msg (x : Reply) : (s.reply x).msg = s.msg := rfl
@[simp] theorem State.reply_len (x : Reply) : (s.reply x).len = s.len := rfl
@[simp] theorem State.reply_done (x : Reply) : (s.reply x).done = s.done := rfl
@[simp] theorem State.reply_err (x : Reply) : (s.reply x).err = s.err := rfl
@[simp] theorem State.reply_errCode (x : Reply) : (s.reply x).errCode = s.errCode := rfl
@[simp] theorem State.reply_engine (x : Reply) : (s.reply x).engine = s.engine := rfl
@[simp] theorem State.reply_windows (x : Reply) : (s.reply x).windows = s.windows := rfl
@[simp] theorem State.reply_host (x : Reply) : (s.reply x).host = s.host := rfl

@[simp] theorem State.reply_replies (x : Reply) : (s.reply x).replies = s.replies ++ [x] := rfl
@[simp] theorem State.reply_draw (x : Reply) : (s.reply x).draw = s.draw + 1 := rfl

variable (rest : List HostOp)

@[simp] theorem State.withHost_h : (s.withHost rest).h = s.h := rfl
@[simp] theorem State.withHost_hKnown : (s.withHost rest).hKnown = s.hKnown := rfl
@[simp] theorem State.withHost_v : (s.withHost rest).v = s.v := rfl
@[simp] theorem State.withHost_vKnown : (s.withHost rest).vKnown = s.vKnown := rfl
@[simp] theorem State.withHost_w : (s.withHost rest).w = s.w := rfl
@[simp] theorem State.withHost_wKnown : (s.withHost rest).wKnown = s.wKnown := rfl
@[simp] theorem State.withHost_out : (s.withHost rest).out = s.out := rfl
@[simp] theorem State.withHost_outKnown : (s.withHost rest).outKnown = s.outKnown := rfl
@[simp] theorem State.withHost_msg : (s.withHost rest).msg = s.msg := rfl
@[simp] theorem State.withHost_len : (s.withHost rest).len = s.len := rfl
@[simp] theorem State.withHost_done : (s.withHost rest).done = s.done := rfl
@[simp] theorem State.withHost_err : (s.withHost rest).err = s.err := rfl
@[simp] theorem State.withHost_errCode : (s.withHost rest).errCode = s.errCode := rfl
@[simp] theorem State.withHost_engine : (s.withHost rest).engine = s.engine := rfl
@[simp] theorem State.withHost_windows : (s.withHost rest).windows = s.windows := rfl
@[simp] theorem State.withHost_replies : (s.withHost rest).replies = s.replies := rfl
@[simp] theorem State.withHost_draw : (s.withHost rest).draw = s.draw := rfl
@[simp] theorem State.withHost_host : (s.withHost rest).host = rest := rfl

@[simp] theorem State.popHost_h : (s.popHost).h = s.h := rfl
@[simp] theorem State.popHost_hKnown : (s.popHost).hKnown = s.hKnown := rfl
@[simp] theorem State.popHost_v : (s.popHost).v = s.v := rfl
@[simp] theorem State.popHost_vKnown : (s.popHost).vKnown = s.vKnown := rfl
@[simp] theorem State.popHost_w : (s.popHost).w = s.w := rfl
@[simp] theorem State.popHost_wKnown : (s.popHost).wKnown = s.wKnown := rfl
@[simp] theorem State.popHost_out : (s.popHost).out = s.out := rfl
@[simp] theorem State.popHost_outKnown : (s.popHost).outKnown = s.outKnown := rfl
@[simp] theorem State.popHost_msg : (s.popHost).msg = s.msg := rfl
@[simp] theorem State.popHost_len : (s.popHost).len = s.len := rfl
@[simp] theorem State.popHost_done : (s.popHost).done = s.done := rfl
@[simp] theorem State.popHost_err : (s.popHost).err = s.err := rfl
@[simp] theorem State.popHost_errCode : (s.popHost).errCode = s.errCode := rfl
@[simp] theorem State.popHost_engine : (s.popHost).engine = s.engine := rfl
@[simp] theorem State.popHost_windows : (s.popHost).windows = s.windows := rfl
@[simp] theorem State.popHost_replies : (s.popHost).replies = s.replies := rfl
@[simp] theorem State.popHost_draw : (s.popHost).draw = s.draw := rfl

@[simp] theorem State.popHost_host : s.popHost.host = s.host.tail := rfl

@[simp] theorem State.initEffect_v : (s.initEffect).v = s.v := rfl
@[simp] theorem State.initEffect_vKnown : (s.initEffect).vKnown = s.vKnown := rfl
@[simp] theorem State.initEffect_w : (s.initEffect).w = s.w := rfl
@[simp] theorem State.initEffect_wKnown : (s.initEffect).wKnown = s.wKnown := rfl
@[simp] theorem State.initEffect_out : (s.initEffect).out = s.out := rfl
@[simp] theorem State.initEffect_outKnown : (s.initEffect).outKnown = s.outKnown := rfl
@[simp] theorem State.initEffect_msg : (s.initEffect).msg = s.msg := rfl
@[simp] theorem State.initEffect_len : (s.initEffect).len = s.len := rfl
@[simp] theorem State.initEffect_done : (s.initEffect).done = s.done := rfl
@[simp] theorem State.initEffect_err : (s.initEffect).err = s.err := rfl
@[simp] theorem State.initEffect_errCode : (s.initEffect).errCode = s.errCode := rfl
@[simp] theorem State.initEffect_engine : (s.initEffect).engine = s.engine := rfl
@[simp] theorem State.initEffect_windows : (s.initEffect).windows = s.windows := rfl
@[simp] theorem State.initEffect_host : (s.initEffect).host = s.host := rfl
@[simp] theorem State.initEffect_replies : (s.initEffect).replies = s.replies := rfl
@[simp] theorem State.initEffect_draw : (s.initEffect).draw = s.draw := rfl

@[simp] theorem State.ldblkEffect_h (blk : Nat) : (s.ldblkEffect blk).h = s.h := rfl
@[simp] theorem State.ldblkEffect_hKnown (blk : Nat) : (s.ldblkEffect blk).hKnown = s.hKnown := rfl
@[simp] theorem State.ldblkEffect_v (blk : Nat) : (s.ldblkEffect blk).v = s.v := rfl
@[simp] theorem State.ldblkEffect_vKnown (blk : Nat) : (s.ldblkEffect blk).vKnown = s.vKnown := rfl
@[simp] theorem State.ldblkEffect_out (blk : Nat) : (s.ldblkEffect blk).out = s.out := rfl
@[simp] theorem State.ldblkEffect_outKnown (blk : Nat) : (s.ldblkEffect blk).outKnown = s.outKnown := rfl
@[simp] theorem State.ldblkEffect_msg (blk : Nat) : (s.ldblkEffect blk).msg = s.msg := rfl
@[simp] theorem State.ldblkEffect_len (blk : Nat) : (s.ldblkEffect blk).len = s.len := rfl
@[simp] theorem State.ldblkEffect_done (blk : Nat) : (s.ldblkEffect blk).done = s.done := rfl
@[simp] theorem State.ldblkEffect_err (blk : Nat) : (s.ldblkEffect blk).err = s.err := rfl
@[simp] theorem State.ldblkEffect_errCode (blk : Nat) : (s.ldblkEffect blk).errCode = s.errCode := rfl
@[simp] theorem State.ldblkEffect_engine (blk : Nat) : (s.ldblkEffect blk).engine = s.engine := rfl
@[simp] theorem State.ldblkEffect_windows (blk : Nat) : (s.ldblkEffect blk).windows = s.windows := rfl
@[simp] theorem State.ldblkEffect_host (blk : Nat) : (s.ldblkEffect blk).host = s.host := rfl
@[simp] theorem State.ldblkEffect_replies (blk : Nat) : (s.ldblkEffect blk).replies = s.replies := rfl
@[simp] theorem State.ldblkEffect_draw (blk : Nat) : (s.ldblkEffect blk).draw = s.draw := rfl

@[simp] theorem State.expandEffect_h : (s.expandEffect).h = s.h := rfl
@[simp] theorem State.expandEffect_hKnown : (s.expandEffect).hKnown = s.hKnown := rfl
@[simp] theorem State.expandEffect_v : (s.expandEffect).v = s.v := rfl
@[simp] theorem State.expandEffect_vKnown : (s.expandEffect).vKnown = s.vKnown := rfl
@[simp] theorem State.expandEffect_out : (s.expandEffect).out = s.out := rfl
@[simp] theorem State.expandEffect_outKnown : (s.expandEffect).outKnown = s.outKnown := rfl
@[simp] theorem State.expandEffect_msg : (s.expandEffect).msg = s.msg := rfl
@[simp] theorem State.expandEffect_len : (s.expandEffect).len = s.len := rfl
@[simp] theorem State.expandEffect_done : (s.expandEffect).done = s.done := rfl
@[simp] theorem State.expandEffect_err : (s.expandEffect).err = s.err := rfl
@[simp] theorem State.expandEffect_errCode : (s.expandEffect).errCode = s.errCode := rfl
@[simp] theorem State.expandEffect_engine : (s.expandEffect).engine = s.engine := rfl
@[simp] theorem State.expandEffect_windows : (s.expandEffect).windows = s.windows := rfl
@[simp] theorem State.expandEffect_host : (s.expandEffect).host = s.host := rfl
@[simp] theorem State.expandEffect_replies : (s.expandEffect).replies = s.replies := rfl
@[simp] theorem State.expandEffect_draw : (s.expandEffect).draw = s.draw := rfl

@[simp] theorem State.roundsEffect_h : (s.roundsEffect).h = s.h := rfl
@[simp] theorem State.roundsEffect_hKnown : (s.roundsEffect).hKnown = s.hKnown := rfl
@[simp] theorem State.roundsEffect_w : (s.roundsEffect).w = s.w := rfl
@[simp] theorem State.roundsEffect_wKnown : (s.roundsEffect).wKnown = s.wKnown := rfl
@[simp] theorem State.roundsEffect_out : (s.roundsEffect).out = s.out := rfl
@[simp] theorem State.roundsEffect_outKnown : (s.roundsEffect).outKnown = s.outKnown := rfl
@[simp] theorem State.roundsEffect_msg : (s.roundsEffect).msg = s.msg := rfl
@[simp] theorem State.roundsEffect_len : (s.roundsEffect).len = s.len := rfl
@[simp] theorem State.roundsEffect_done : (s.roundsEffect).done = s.done := rfl
@[simp] theorem State.roundsEffect_err : (s.roundsEffect).err = s.err := rfl
@[simp] theorem State.roundsEffect_errCode : (s.roundsEffect).errCode = s.errCode := rfl
@[simp] theorem State.roundsEffect_engine : (s.roundsEffect).engine = s.engine := rfl
@[simp] theorem State.roundsEffect_windows : (s.roundsEffect).windows = s.windows := rfl
@[simp] theorem State.roundsEffect_host : (s.roundsEffect).host = s.host := rfl
@[simp] theorem State.roundsEffect_replies : (s.roundsEffect).replies = s.replies := rfl
@[simp] theorem State.roundsEffect_draw : (s.roundsEffect).draw = s.draw := rfl

@[simp] theorem State.addhEffect_v : (s.addhEffect).v = s.v := rfl
@[simp] theorem State.addhEffect_vKnown : (s.addhEffect).vKnown = s.vKnown := rfl
@[simp] theorem State.addhEffect_w : (s.addhEffect).w = s.w := rfl
@[simp] theorem State.addhEffect_wKnown : (s.addhEffect).wKnown = s.wKnown := rfl
@[simp] theorem State.addhEffect_out : (s.addhEffect).out = s.out := rfl
@[simp] theorem State.addhEffect_outKnown : (s.addhEffect).outKnown = s.outKnown := rfl
@[simp] theorem State.addhEffect_msg : (s.addhEffect).msg = s.msg := rfl
@[simp] theorem State.addhEffect_len : (s.addhEffect).len = s.len := rfl
@[simp] theorem State.addhEffect_done : (s.addhEffect).done = s.done := rfl
@[simp] theorem State.addhEffect_err : (s.addhEffect).err = s.err := rfl
@[simp] theorem State.addhEffect_errCode : (s.addhEffect).errCode = s.errCode := rfl
@[simp] theorem State.addhEffect_engine : (s.addhEffect).engine = s.engine := rfl
@[simp] theorem State.addhEffect_windows : (s.addhEffect).windows = s.windows := rfl
@[simp] theorem State.addhEffect_host : (s.addhEffect).host = s.host := rfl
@[simp] theorem State.addhEffect_replies : (s.addhEffect).replies = s.replies := rfl
@[simp] theorem State.addhEffect_draw : (s.addhEffect).draw = s.draw := rfl

@[simp] theorem State.hexEffect_h : (s.hexEffect).h = s.h := rfl
@[simp] theorem State.hexEffect_hKnown : (s.hexEffect).hKnown = s.hKnown := rfl
@[simp] theorem State.hexEffect_v : (s.hexEffect).v = s.v := rfl
@[simp] theorem State.hexEffect_vKnown : (s.hexEffect).vKnown = s.vKnown := rfl
@[simp] theorem State.hexEffect_w : (s.hexEffect).w = s.w := rfl
@[simp] theorem State.hexEffect_wKnown : (s.hexEffect).wKnown = s.wKnown := rfl
@[simp] theorem State.hexEffect_msg : (s.hexEffect).msg = s.msg := rfl
@[simp] theorem State.hexEffect_len : (s.hexEffect).len = s.len := rfl
@[simp] theorem State.hexEffect_done : (s.hexEffect).done = s.done := rfl
@[simp] theorem State.hexEffect_err : (s.hexEffect).err = s.err := rfl
@[simp] theorem State.hexEffect_errCode : (s.hexEffect).errCode = s.errCode := rfl
@[simp] theorem State.hexEffect_engine : (s.hexEffect).engine = s.engine := rfl
@[simp] theorem State.hexEffect_windows : (s.hexEffect).windows = s.windows := rfl
@[simp] theorem State.hexEffect_host : (s.hexEffect).host = s.host := rfl
@[simp] theorem State.hexEffect_replies : (s.hexEffect).replies = s.replies := rfl
@[simp] theorem State.hexEffect_draw : (s.hexEffect).draw = s.draw := rfl

@[simp] theorem State.blockEffect_out (blk : Nat) : (s.blockEffect blk).out = s.out := by simp [State.blockEffect]
@[simp] theorem State.blockEffect_outKnown (blk : Nat) : (s.blockEffect blk).outKnown = s.outKnown := by simp [State.blockEffect]
@[simp] theorem State.blockEffect_msg (blk : Nat) : (s.blockEffect blk).msg = s.msg := by simp [State.blockEffect]
@[simp] theorem State.blockEffect_len (blk : Nat) : (s.blockEffect blk).len = s.len := by simp [State.blockEffect]
@[simp] theorem State.blockEffect_done (blk : Nat) : (s.blockEffect blk).done = s.done := by simp [State.blockEffect]
@[simp] theorem State.blockEffect_err (blk : Nat) : (s.blockEffect blk).err = s.err := by simp [State.blockEffect]
@[simp] theorem State.blockEffect_errCode (blk : Nat) : (s.blockEffect blk).errCode = s.errCode := by simp [State.blockEffect]
@[simp] theorem State.blockEffect_engine (blk : Nat) : (s.blockEffect blk).engine = s.engine := by simp [State.blockEffect]
@[simp] theorem State.blockEffect_windows (blk : Nat) : (s.blockEffect blk).windows = s.windows := by simp [State.blockEffect]
@[simp] theorem State.blockEffect_host (blk : Nat) : (s.blockEffect blk).host = s.host := by simp [State.blockEffect]
@[simp] theorem State.blockEffect_replies (blk : Nat) : (s.blockEffect blk).replies = s.replies := by simp [State.blockEffect]
@[simp] theorem State.blockEffect_draw (blk : Nat) : (s.blockEffect blk).draw = s.draw := by simp [State.blockEffect]

@[simp] theorem State.digestUpTo_out (n : Nat) : (s.digestUpTo n).out = s.out := by
  induction n <;> simp_all [State.digestUpTo]
@[simp] theorem State.digestUpTo_outKnown (n : Nat) : (s.digestUpTo n).outKnown = s.outKnown := by
  induction n <;> simp_all [State.digestUpTo]
@[simp] theorem State.digestUpTo_msg (n : Nat) : (s.digestUpTo n).msg = s.msg := by
  induction n <;> simp_all [State.digestUpTo]
@[simp] theorem State.digestUpTo_len (n : Nat) : (s.digestUpTo n).len = s.len := by
  induction n <;> simp_all [State.digestUpTo]
@[simp] theorem State.digestUpTo_done (n : Nat) : (s.digestUpTo n).done = s.done := by
  induction n <;> simp_all [State.digestUpTo]
@[simp] theorem State.digestUpTo_err (n : Nat) : (s.digestUpTo n).err = s.err := by
  induction n <;> simp_all [State.digestUpTo]
@[simp] theorem State.digestUpTo_errCode (n : Nat) : (s.digestUpTo n).errCode = s.errCode := by
  induction n <;> simp_all [State.digestUpTo]
@[simp] theorem State.digestUpTo_engine (n : Nat) : (s.digestUpTo n).engine = s.engine := by
  induction n <;> simp_all [State.digestUpTo]
@[simp] theorem State.digestUpTo_windows (n : Nat) : (s.digestUpTo n).windows = s.windows := by
  induction n <;> simp_all [State.digestUpTo]
@[simp] theorem State.digestUpTo_host (n : Nat) : (s.digestUpTo n).host = s.host := by
  induction n <;> simp_all [State.digestUpTo]
@[simp] theorem State.digestUpTo_replies (n : Nat) : (s.digestUpTo n).replies = s.replies := by
  induction n <;> simp_all [State.digestUpTo]
@[simp] theorem State.digestUpTo_draw (n : Nat) : (s.digestUpTo n).draw = s.draw := by
  induction n <;> simp_all [State.digestUpTo]

@[simp] theorem State.digestEffect_out : (s.digestEffect).out = s.out := by simp [State.digestEffect]
@[simp] theorem State.digestEffect_outKnown : (s.digestEffect).outKnown = s.outKnown := by simp [State.digestEffect]
@[simp] theorem State.digestEffect_msg : (s.digestEffect).msg = s.msg := by simp [State.digestEffect]
@[simp] theorem State.digestEffect_len : (s.digestEffect).len = s.len := by simp [State.digestEffect]
@[simp] theorem State.digestEffect_done : (s.digestEffect).done = s.done := by simp [State.digestEffect]
@[simp] theorem State.digestEffect_err : (s.digestEffect).err = s.err := by simp [State.digestEffect]
@[simp] theorem State.digestEffect_errCode : (s.digestEffect).errCode = s.errCode := by simp [State.digestEffect]
@[simp] theorem State.digestEffect_engine : (s.digestEffect).engine = s.engine := by simp [State.digestEffect]
@[simp] theorem State.digestEffect_windows : (s.digestEffect).windows = s.windows := by simp [State.digestEffect]
@[simp] theorem State.digestEffect_host : (s.digestEffect).host = s.host := by simp [State.digestEffect]
@[simp] theorem State.digestEffect_replies : (s.digestEffect).replies = s.replies := by simp [State.digestEffect]
@[simp] theorem State.digestEffect_draw : (s.digestEffect).draw = s.draw := by simp [State.digestEffect]

@[simp] theorem State.hashEffect_msg : (s.hashEffect).msg = s.msg := by simp [State.hashEffect]
@[simp] theorem State.hashEffect_len : (s.hashEffect).len = s.len := by simp [State.hashEffect]
@[simp] theorem State.hashEffect_done : (s.hashEffect).done = s.done := by simp [State.hashEffect]
@[simp] theorem State.hashEffect_err : (s.hashEffect).err = s.err := by simp [State.hashEffect]
@[simp] theorem State.hashEffect_errCode : (s.hashEffect).errCode = s.errCode := by simp [State.hashEffect]
@[simp] theorem State.hashEffect_engine : (s.hashEffect).engine = s.engine := by simp [State.hashEffect]
@[simp] theorem State.hashEffect_windows : (s.hashEffect).windows = s.windows := by simp [State.hashEffect]
@[simp] theorem State.hashEffect_host : (s.hashEffect).host = s.host := by simp [State.hashEffect]
@[simp] theorem State.hashEffect_replies : (s.hashEffect).replies = s.replies := by simp [State.hashEffect]
@[simp] theorem State.hashEffect_draw : (s.hashEffect).draw = s.draw := by simp [State.hashEffect]

end Sys2Proof.Machine
end

