-- ==== Sys2Proof/Laws/Protocol.lean ====
section
/-! SUPPORT. The command protocol, said once: which of the five cases of R130 applies and what it leaves, what a window is, and what every
command is in these terms. -/

namespace Sys2Proof.Machine

/-- BUSY is 0 exactly when the engine is idle (R31). -/
theorem State.busy_eq_false {s : State} : s.busy = false ↔ s.engine = .idle := by
  unfold State.busy; split <;> simp_all

theorem State.busy_eq_true {s : State} : s.busy = true ↔ ∃ i n, s.engine = .executing i n := by
  unfold State.busy; split <;> simp_all

/-- BUSY depends on the engine alone. -/
theorem State.busy_congr {s t : State} (h : t.engine = s.engine) : t.busy = s.busy := by
  unfold State.busy; rw [h]

@[simp] theorem State.raise_busy (s : State) (f : Cause) : (s.raise f).busy = s.busy := State.busy_congr (by simp)
@[simp] theorem State.withHost_busy (s : State) (rest : List HostOp) : (s.withHost rest).busy = s.busy := rfl
@[simp] theorem State.popHost_busy (s : State) : s.popHost.busy = s.busy := rfl
@[simp] theorem State.dropDone_busy (s : State) : s.dropDone.busy = s.busy := rfl
@[simp] theorem State.complete_busy (s : State) : s.complete.busy = false := rfl

/-- The precondition check of each command (R130 case 4). -/
def checkOf : Instr → State → Option Cause
  | .init => noCheck
  | .ldblk blk => checkBlock blk
  | .expand => noCheck
  | .rounds => noCheck
  | .addh => noCheck
  | .block blk => checkBlock blk
  | .digest => checkLength
  | .hex => noCheck
  | .hash => checkLength
  | .clrerr => noCheck

/-- The pseudocode of each command. -/
def effectOf : Instr → State → State
  | .init => State.initEffect
  | .ldblk blk => State.ldblkEffect blk
  | .expand => State.expandEffect
  | .rounds => State.roundsEffect
  | .addh => State.addhEffect
  | .block blk => State.blockEffect blk
  | .digest => State.digestEffect
  | .hex => State.hexEffect
  | .hash => State.hashEffect
  | .clrerr => State.clearFault

/-- Every command is issued by the one protocol with its own check and its own pseudocode. -/
theorem exec_eq (i : Instr) (s : State) : exec i s = .next (s.issue i (checkOf i) (effectOf i)) := by
  cases i <;> rfl

section cases
variable {i : Instr} {check : State → Option Cause} {effect : State → State} {s : State}

/-- Case 1 of R130. -/
theorem State.issue_busy (h : s.busy = true) : s.issue i check effect = s.raise .busyViolation := by
  simp [State.issue, State.protocol, h]

/-- Case 2 of R130. -/
theorem State.issue_faulted (h : s.busy = false) (he : s.err = true) (hi : i ≠ .clrerr) : s.issue i check effect = s := by
  simp [State.issue, State.protocol, h, he, hi]

/-- Cases 4 and 5 of R130. -/
theorem State.issue_checked (h : s.busy = false) (he : s.err = false ∨ i = .clrerr) :
    s.issue i check effect = s.checked i check effect := by
  rcases he with he | rfl <;> simp [State.issue, State.protocol, *]

/-- Case 4 of R130. -/
theorem State.checked_some {f : Cause} (h : check s = some f) : s.checked i check effect = s.dropDone.raise f := by
  simp [State.checked, h]

/-- Case 5 of R130. -/
theorem State.checked_none (h : check s = none) : s.checked i check effect = s.accept i effect := by
  simp [State.checked, h]

/-- The five cases of R130 for a legal word. -/
theorem State.issue_cases :
    (s.busy = true ∧ s.issue i check effect = s.raise .busyViolation) ∨
    (s.busy = false ∧ s.err = true ∧ i ≠ .clrerr ∧ s.issue i check effect = s) ∨
    (s.busy = false ∧ (s.err = false ∨ i = .clrerr) ∧ ∃ f, check s = some f ∧ s.issue i check effect = s.dropDone.raise f) ∨
    (s.busy = false ∧ (s.err = false ∨ i = .clrerr) ∧ check s = none ∧ s.issue i check effect = s.accept i effect) := by
  cases hb : s.busy
  · by_cases he : s.err = false ∨ i = .clrerr
    · rw [State.issue_checked hb he]
      cases hc : check s
      · exact .inr (.inr (.inr ⟨rfl, he, rfl, State.checked_none hc⟩))
      · exact .inr (.inr (.inl ⟨rfl, he, _, rfl, State.checked_some hc⟩))
    · rw [not_or] at he
      exact .inr (.inl ⟨rfl, by simpa using he.1, he.2, State.issue_faulted hb (by simpa using he.1) he.2⟩)
  · exact .inl ⟨rfl, State.issue_busy hb⟩

end cases

/-- What case 4 leaves when no fault was recorded. -/
theorem State.dropDone_raise {s : State} (f : Cause) (h : s.err = false) :
    s.dropDone.raise f = { s with done := false, err := true, errCode := f.code } := by
  simp [State.raise, State.dropDone, h]

/-- The state the pseudocode is applied to and the fields acceptance adds. -/
theorem State.accept_eq (i : Instr) (effect : State → State) (s : State) :
    s.accept i effect = (effect s.dropDone).openWindow i (s.nextWindow i) := rfl

/-- The views read the marks, the values and the draw, none of which DONE touches. -/
@[simp] theorem State.dropDone_hView (s : State) : s.dropDone.hView = s.hView := by unfold State.hView; rfl
@[simp] theorem State.dropDone_vView (s : State) : s.dropDone.vView = s.vView := by unfold State.vView; rfl
@[simp] theorem State.dropDone_wView (s : State) : s.dropDone.wView = s.wView := by unfold State.wView; rfl
@[simp] theorem State.dropDone_msgByte (s : State) (a : Nat) : s.dropDone.msgByte a = s.msgByte a := rfl
@[simp] theorem State.dropDone_msgKnown (s : State) (a : Nat) : s.dropDone.msgKnown a = s.msgKnown a := rfl

/-- The check of LDBLK and BLOCK is that of R141: `64 * (blk + 1) > min(LEN, MSG_BYTES)`. -/
theorem checkBlock_eq (blk : Nat) (s : State) :
    checkBlock blk s = if 64 * (blk + 1) > min s.len.toNat Config.msgBytes then some .blockRange else none := by
  simp only [checkBlock, State.blockOutside, Bool.or_eq_true, decide_eq_true_eq]
  congr 1
  simp only [gt_iff_lt, min_lt_iff]

/-- Completion when the window is over, one access less otherwise (R131). -/
theorem State.tick_cases (s : State) :
    (s.engine = .idle ∧ s.tick = s) ∨
    (∃ i n, s.engine = .executing i n ∧ n ≤ 1 ∧ s.tick = s.complete) ∨
    (∃ i n, s.engine = .executing i n ∧ 1 < n ∧ s.tick = { s with engine := .executing i (n - 1) }) := by
  unfold State.tick
  split
  · exact .inl ⟨‹_›, rfl⟩
  · split
    · exact .inr (.inl ⟨_, _, ‹_›, ‹_›, rfl⟩)
    · exact .inr (.inr ⟨_, _, ‹_›, by omega, rfl⟩)

/-- An idle engine does not tick. -/
theorem State.tick_idle {s : State} (h : s.busy = false) : s.tick = s := by
  rw [State.busy_eq_false] at h; simp [State.tick, h]

/-- A step on a legal CMD write. -/
theorem step_command {s : State} {c : Word} {i : Instr} (hc : s.nextCommand = some c) (hd : decode c = .ok i) :
    step s = finishAccess s (exec i s.popHost) := by
  simp [step, hc, hd]

/-- A step on an illegal CMD write. -/
theorem step_illegal {s : State} {c : Word} {e : Illegal} (hc : s.nextCommand = some c) (hd : decode c = .error e) :
    step s = finishAccess s (.next s.popHost.issueIllegal) := by
  simp [step, hc, hd]

/-- A step on any other access, or on none. -/
theorem step_access {s : State} (hc : s.nextCommand = none) : step s = .next s.hostStep := by
  simp [step, hc]

/-- Taking the first access from the script leaves the rest. -/
theorem State.popHost_cons {s : State} {op : HostOp} {rest : List HostOp} (h : s.host = op :: rest) :
    s.popHost = s.withHost rest := by
  simp [State.popHost, h]

/-- A step on an access that is no CMD write: the access, and in a window one access used up. -/
theorem step_cons {s : State} {op : HostOp} {rest : List HostOp} (h : s.host = op :: rest)
    (hn : ∀ c, op ≠ .regWrite 0 c) : step s = .next (s.afterAccess ((s.withHost rest).access op)) := by
  have : s.nextCommand = none := by
    unfold State.nextCommand; split
    · rename_i c _ he; exact absurd (List.cons.inj (h.symm.trans he)).1 (hn c)
    · rfl
  rw [step_access this]
  simp [State.hostStep, h, State.popHost_cons h]

/-- A step with nothing left in the script. -/
theorem step_nil {s : State} (h : s.host = []) : step s = .next s.tick := by
  rw [step_access (by simp [State.nextCommand, h])]; simp [State.hostStep, h]

/-- The first access of a script is a CMD write. -/
theorem State.nextCommand_cons (s : State) (c : Word) (rest : List HostOp) (h : s.host = .regWrite 0 c :: rest) :
    s.nextCommand = some c := by
  simp [State.nextCommand, h]

/-- What a step does, said once: the script is empty and the engine goes on by itself; or its first access is a legal CMD write, an
illegal one, or another access, made on the state without it; and in a window one access is used up. -/
theorem step_next_cases {s t : State} (h : step s = .next t) :
    (s.host = [] ∧ t = s.tick) ∨
    ∃ op rest u, s.host = op :: rest ∧ t = s.afterAccess u ∧
      ((∃ c i, op = .regWrite 0 c ∧ decode c = .ok i ∧ u = (s.withHost rest).issue i (checkOf i) (effectOf i)) ∨
       (∃ c e, op = .regWrite 0 c ∧ decode c = .error e ∧ u = (s.withHost rest).issueIllegal) ∨
       ((∀ c, op ≠ .regWrite 0 c) ∧ u = (s.withHost rest).access op)) := by
  cases hs : s.host with
  | nil => rw [step_nil hs] at h; exact .inl ⟨rfl, (Host.Outcome.next.inj h).symm⟩
  | cons op rest =>
    refine .inr ⟨op, rest, ?_⟩
    by_cases hn : ∃ c, op = .regWrite 0 c
    · obtain ⟨c, rfl⟩ := hn
      have hc := s.nextCommand_cons c rest hs
      cases hd : decode c with
      | ok i =>
        rw [step_command hc hd, exec_eq, State.popHost_cons hs] at h
        exact ⟨_, rfl, (Host.Outcome.next.inj h).symm, .inl ⟨c, i, rfl, hd, rfl⟩⟩
      | error e =>
        rw [step_illegal hc hd, State.popHost_cons hs] at h
        exact ⟨_, rfl, (Host.Outcome.next.inj h).symm, .inr (.inl ⟨c, e, rfl, hd, rfl⟩)⟩
    · have hn' : ∀ c, op ≠ .regWrite 0 c := fun c e => hn ⟨c, e⟩
      rw [step_cons hs hn'] at h
      exact ⟨_, rfl, (Host.Outcome.next.inj h).symm, .inr (.inr ⟨hn', rfl⟩)⟩

/-- On any machine a run begins with a step. -/
theorem coreRun_succ (M : Host.Core) (n : Nat) (s t : M.State) (h : M.step s = .next t) : M.run (n + 1) s = M.run n t := by
  rw [Host.Core.run, h]

/-- A run of no steps. -/
theorem run_zero (s : State) : core.run 0 s = .next s := rfl

/-- A run begins with a step. -/
theorem run_succ {s t : State} (n : Nat) (h : step s = .next t) : core.run (n + 1) s = core.run n t :=
  coreRun_succ core n s t h

/-- On any machine a run goes on where its first part ended. -/
theorem coreRun_add (M : Host.Core) (m n : Nat) (s t : M.State) (h : M.run m s = .next t) : M.run (m + n) s = M.run n t := by
  induction m generalizing s with
  | zero => rw [Host.Core.run] at h; cases h; rw [Nat.zero_add]
  | succ m ih =>
    cases hs : M.step s with
    | next u =>
      rw [coreRun_succ M m s u hs] at h
      rw [Nat.succ_add, coreRun_succ M (m + n) s u hs, ih u h]
    | fault r => rw [Host.Core.run, hs] at h; cases h
    | refused r => rw [Host.Core.run, hs] at h; cases h

/-- A run goes on where its first part ended. -/
theorem run_add {s t : State} (m n : Nat) (h : core.run m s = .next t) : core.run (m + n) s = core.run n t :=
  coreRun_add core m n s t h

end Sys2Proof.Machine
end

