-- ==== Sys2Proof/Laws/Views.lean ====
section
/-! SUPPORT. What the engine and the host read (R33): the value held where it is specified, and what LDBLK and EXPAND leave place by
place. -/

namespace Sys2Proof.Machine

variable {s : State}

/-- A specified word of H reads as the value held. -/
theorem State.hView_getElem (j : Nat) (hj : j < 8) (h : s.hKnown[j] = true) : s.hView[j] = s.h[j] := by
  unfold State.hView; simp [h]

/-- A specified word of V reads as the value held. -/
theorem State.vView_getElem (j : Nat) (hj : j < 8) (h : s.vKnown[j] = true) : s.vView[j] = s.v[j] := by
  unfold State.vView; simp [h]

/-- A specified word of W reads as the value held. -/
theorem State.wView_getElem (k : Nat) (hk : k < 64) (h : s.wKnown[k] = true) : s.wView[k] = s.w[k] := by
  unfold State.wView; simp [h]

/-- A specified character of OUT reads as the value held. -/
theorem State.outView_getElem (i : Nat) (hi : i < 64) (h : s.outKnown[i] = true) : s.outView[i] = s.out[i] := by
  unfold State.outView; simp [h]

/-- With all of H specified it reads as it is. -/
theorem State.hView_eq (h : ∀ (j : Nat) (hj : j < 8), s.hKnown[j] = true) : s.hView = s.h :=
  Vector.ext fun j hj => State.hView_getElem j hj (h j hj)

theorem State.vView_eq (h : ∀ (j : Nat) (hj : j < 8), s.vKnown[j] = true) : s.vView = s.v :=
  Vector.ext fun j hj => State.vView_getElem j hj (h j hj)

theorem State.wView_eq (h : ∀ (k : Nat) (hk : k < 64), s.wKnown[k] = true) : s.wView = s.w :=
  Vector.ext fun k hk => State.wView_getElem k hk (h k hk)

/-- LDBLK writes W[0..15] (R141). -/
theorem State.loadedWords_low (blk k : Nat) (hk : k < 16) :
    (s.loadedWords blk)[k] = s.msgWord (64 * blk + 4 * k) := by
  unfold State.loadedWords; simp [hk, blockWordAddr]

/-- LDBLK leaves W[16..63] (R141). -/
theorem State.loadedWords_high (blk k : Nat) (lo : 16 ≤ k) (hk : k < 64) : (s.loadedWords blk)[k] = s.w[k] := by
  unfold State.loadedWords; simp [show ¬ k < 16 by omega]

theorem State.loadedKnown_low (blk k : Nat) (hk : k < 16) :
    (s.loadedKnown blk)[k] = s.msgWordKnown (64 * blk + 4 * k) := by
  unfold State.loadedKnown; simp [hk, blockWordAddr]

theorem State.loadedKnown_high (blk k : Nat) (lo : 16 ≤ k) (hk : k < 64) : (s.loadedKnown blk)[k] = s.wKnown[k] := by
  unfold State.loadedKnown; simp [show ¬ k < 16 by omega]

/-- EXPAND leaves W[0..15] (R142). -/
theorem State.expandedWords_low (k : Nat) (hk : k < 16) : s.expandedWords[k] = s.w[k] := by
  unfold State.expandedWords; simp [hk]

/-- EXPAND writes W[16..63] (R142). -/
theorem State.expandedWords_high (k : Nat) (lo : 16 ≤ k) (hk : k < 64) : s.expandedWords[k] = (expandWords s.wView)[k] := by
  unfold State.expandedWords; simp [show ¬ k < 16 by omega]

/-- A word of MSG is specified exactly when its four bytes are (R62). -/
theorem State.msgWordKnown_iff (a : Nat) :
    s.msgWordKnown a = true ↔ ∀ x, a ≤ x → x < a + 4 → (Mem.find s.msg x).isSome = true := by
  simp only [State.msgWordKnown, State.msgKnown, Bool.and_eq_true]
  constructor
  · rintro ⟨⟨⟨h0, h1⟩, h2⟩, h3⟩ x lo hi
    obtain rfl | rfl | rfl | rfl : x = a ∨ x = a + 1 ∨ x = a + 2 ∨ x = a + 3 := by omega
    all_goals assumption
  · intro h
    exact ⟨⟨⟨h _ (by omega) (by omega), h _ (by omega) (by omega)⟩, h _ (by omega) (by omega)⟩, h _ (by omega) (by omega)⟩

/-- R63, R121: a word from four bytes as a number. -/
theorem be32_toNat (b0 b1 b2 b3 : Byte) :
    (be32 b0 b1 b2 b3).toNat = b0.toNat * 2 ^ 24 + b1.toNat * 2 ^ 16 + b2.toNat * 2 ^ 8 + b3.toNat := by
  have h0 := b0.isLt; have h1 := b1.isLt; have h2 := b2.isLt; have h3 := b3.isLt
  have e : (be32 b0 b1 b2 b3).toNat = (((b0.toNat <<< 8 ||| b1.toNat) <<< 8 ||| b2.toNat) <<< 8 ||| b3.toNat) := by
    unfold be32; rw [BitVec.toNat_append, BitVec.toNat_append, BitVec.toNat_append]
  rw [e, ← Nat.shiftLeft_add_eq_or_of_lt h1, ← Nat.shiftLeft_add_eq_or_of_lt h2, ← Nat.shiftLeft_add_eq_or_of_lt h3]
  simp only [Nat.shiftLeft_eq]; omega

end Sys2Proof.Machine
end

