-- ==== Sys2Proof/Laws/Commands.lean ====
section
/-! SUPPORT. What acceptance leaves (R130 case 5, R131), said once for every command, and what the composite pseudocodes are. -/

namespace Sys2Proof.Machine

/-- Acceptance opens the window, whatever the pseudocode does to the data. -/
theorem State.accept_opened {s : State} {i : Instr} {effect : State → State} (hw : (effect s.dropDone).windows = s.windows)
    (hd : (effect s.dropDone).done = false) (hn : (effect s.dropDone).draw = s.draw) : Opened i s (s.accept i effect) := by
  rw [State.accept_eq]
  refine ⟨by simp [hw], by simp [hn], ?_⟩
  rw [State.openWindow_engine, State.openWindow_done, hd]
  split_ifs <;> simp

/-- Acceptance changes the data as the pseudocode does. -/
theorem State.accept_data (s : State) (i : Instr) (effect : State → State) :
    SameH (effect s.dropDone) (s.accept i effect) ∧ SameV (effect s.dropDone) (s.accept i effect) ∧
    SameW (effect s.dropDone) (s.accept i effect) ∧ SameOut (effect s.dropDone) (s.accept i effect) ∧
    (s.accept i effect).msg = (effect s.dropDone).msg ∧ (s.accept i effect).len = (effect s.dropDone).len ∧
    SameFault (effect s.dropDone) (s.accept i effect) ∧ SameHost (effect s.dropDone) (s.accept i effect) := by
  rw [State.accept_eq]
  refine ⟨⟨?_, ?_⟩, ⟨?_, ?_⟩, ⟨?_, ?_⟩, ⟨?_, ?_⟩, ?_, ?_, ⟨?_, ?_⟩, ⟨?_, ?_⟩⟩ <;> simp

/-- A ready machine accepts a command whose check passes. -/
theorem exec_accepted {s : State} (h : s.Ready) (i : Instr) (hc : checkOf i s = none) :
    exec i s = .next (s.accept i (effectOf i)) := by
  rw [exec_eq, State.issue_checked h.1 (.inl h.2), State.checked_none hc]

/-- A ready machine turns a command away whose check fails: STATUS alone changes. -/
theorem exec_turnedAway {s : State} (h : s.Ready) (i : Instr) {f : Cause} (hc : checkOf i s = some f) :
    exec i s = .next (s.turnedAway f.code) := by
  rw [exec_eq, State.issue_checked h.1 (.inl h.2), State.checked_some hc, State.dropDone_raise f h.2]; rfl

/-- A block inside passes the check (R141). -/
theorem checkBlock_inside {s : State} {blk : Nat} (h : s.BlockInside blk) : checkBlock blk s = none := by
  rw [checkBlock_eq, if_neg (by unfold State.BlockInside at h; omega)]

/-- A block outside does not (R224). -/
theorem checkBlock_outside {s : State} {blk : Nat} (h : 64 * (blk + 1) > min s.len.toNat Config.msgBytes) :
    checkBlock blk s = some .blockRange := by
  rw [checkBlock_eq, if_pos h]

/-- A length that is a multiple of 64 and fits passes the check (R171). -/
theorem checkLength_ok {s : State} (h : s.len.toNat % 64 = 0) (hl : s.len.toNat ≤ Config.msgBytes) : checkLength s = none := by
  simp [checkLength, h, show ¬ Config.msgBytes < s.len.toNat by omega]

/-- The check of DIGEST and HASH, length first (R171, R229). -/
theorem checkLength_cases (s : State) :
    (s.len.toNat % 64 ≠ 0 ∧ checkLength s = some .bufferInvariantViolation) ∨
    (s.len.toNat % 64 = 0 ∧ Config.msgBytes < s.len.toNat ∧ checkLength s = some .blockRange) ∨
    (s.len.toNat % 64 = 0 ∧ s.len.toNat ≤ Config.msgBytes ∧ checkLength s = none) := by
  unfold checkLength
  by_cases h : s.len.toNat % 64 = 0
  · by_cases h' : Config.msgBytes < s.len.toNat
    · exact .inr (.inl ⟨h, h', by simp [h, h']⟩)
    · exact .inr (.inr ⟨h, by omega, by simp [h, h']⟩)
  · exact .inl ⟨h, by simp [h]⟩

/-- Every pseudocode leaves BUSY_STEPS, DONE, the host's side and the message alone. -/
theorem effectOf_frame (i : Instr) (s : State) :
    (effectOf i s).windows = s.windows ∧ (effectOf i s).done = s.done ∧ (effectOf i s).host = s.host ∧
    (effectOf i s).replies = s.replies ∧ (effectOf i s).msg = s.msg ∧ (effectOf i s).len = s.len ∧
    (effectOf i s).engine = s.engine ∧ (effectOf i s).draw = s.draw := by
  cases i <;> simp [effectOf]

/-! ## Composites -/

/-- The bytes of a block, all written, make all of its loaded words specified. -/
theorem loadedKnown_of_written {s : State} {blk : Nat} (h : s.Written (64 * blk) 64) (k : Nat) (hk : k < 16) :
    (s.loadedKnown blk)[k] = true := by
  rw [State.loadedKnown_low blk k hk, State.msgWordKnown_iff]
  exact fun x lo hi => h x (by omega) (by omega)

/-- After the load and the expansion of a written block every word of W is specified (R255). -/
theorem block_wKnown {s : State} {blk : Nat} (h : s.Written (64 * blk) 64) (k : Nat) (hk : k < 64) :
    (s.ldblkEffect blk).expandEffect.wKnown[k] = true :=
  expandKnown_all _ (fun j hj => loadedKnown_of_written h j hj) k hk

/-- EXPAND of a specified block gives the whole schedule. -/
theorem expandedWords_eq {s : State} (h : ∀ (k : Nat) (hk : k < 16), s.wKnown[k] = true) :
    s.expandedWords = expandWords s.wView := by
  apply Vector.ext; intro k hk
  by_cases lo : k < 16
  · rw [State.expandedWords_low k lo, expandWords_low _ k lo, State.wView_getElem k hk (h k lo)]
  · rw [State.expandedWords_high k (by omega) hk]

/-- Two schedules are equal when their first 16 words are (R142). -/
theorem schedule_ext {x y : Vector Word 64}
    (hx : ∀ (t : Nat) (lo : 16 ≤ t) (hi : t < 64), x[t] = x[t - 16] + ssig0 x[t - 15] + x[t - 7] + ssig1 x[t - 2])
    (hy : ∀ (t : Nat) (lo : 16 ≤ t) (hi : t < 64), y[t] = y[t - 16] + ssig0 y[t - 15] + y[t - 7] + ssig1 y[t - 2])
    (h : ∀ (k : Nat) (hk : k < 16), x[k] = y[k]) : x = y := by
  apply Vector.ext; intro t ht
  induction t using Nat.strong_induction_on with
  | _ t ih =>
    by_cases lo : t < 16
    · exact h t lo
    · rw [hx t (by omega) ht, hy t (by omega) ht, ih (t - 16) (by omega) (by omega), ih (t - 15) (by omega) (by omega),
        ih (t - 7) (by omega) (by omega), ih (t - 2) (by omega) (by omega)]

/-- A schedule is determined by its first 16 words. -/
theorem expandWords_congr {x y : Vector Word 64} (h : ∀ (k : Nat) (hk : k < 16), x[k] = y[k]) :
    expandWords x = expandWords y :=
  schedule_ext (expandWords_high x) (expandWords_high y) fun k hk => by rw [expandWords_low x k hk, expandWords_low y k hk, h k hk]

/-- After the load and the expansion of a written block, W holds the block's schedule (R141, R142). -/
theorem block_w {s : State} {blk : Nat} (h : s.Written (64 * blk) 64) :
    (s.ldblkEffect blk).expandEffect.w = blockSchedule s.msgByte blk := by
  show (s.ldblkEffect blk).expandedWords = _
  rw [expandedWords_eq (fun k hk => loadedKnown_of_written h k hk)]
  refine expandWords_congr fun k hk => ?_
  rw [State.wView_getElem k (by omega) (loadedKnown_of_written h k hk)]
  show (s.loadedWords blk)[k] = _
  rw [State.loadedWords_low blk k hk, Vector.getElem_ofFn, if_pos hk]; rfl

/-- BLOCK on specified operands: schedule, rounds and update (R170), all specified. -/
theorem block_known {s : State} {blk : Nat} (h : s.Written (64 * blk) 64) (hh : ∀ (j : Nat) (hj : j < 8), s.hKnown[j] = true) :
    (s.blockEffect blk).w = blockSchedule s.msgByte blk ∧
    (s.blockEffect blk).v = rounds64 s.h (blockSchedule s.msgByte blk) ∧
    (s.blockEffect blk).h = compressBlock s.msgByte blk s.h ∧
    (∀ (k : Nat) (hk : k < 64), (s.blockEffect blk).wKnown[k] = true) ∧
    (∀ (j : Nat) (hj : j < 8), (s.blockEffect blk).vKnown[j] = true) ∧
    (∀ (j : Nat) (hj : j < 8), (s.blockEffect blk).hKnown[j] = true) := by
  have hw := block_w h
  have kw : ∀ (k : Nat) (hk : k < 64), (s.ldblkEffect blk).expandEffect.wKnown[k] = true := fun k hk => block_wKnown h k hk
  have hv : (s.ldblkEffect blk).expandEffect.hView = s.h := State.hView_eq hh
  have wv : (s.ldblkEffect blk).expandEffect.wView = blockSchedule s.msgByte blk := (State.wView_eq kw).trans hw
  have kv : ∀ (j : Nat) (hj : j < 8), (s.ldblkEffect blk).expandEffect.roundsEffect.vKnown[j] = true :=
    fun j hj => rounds64Known_all _ _ hh kw j hj
  have v : (s.ldblkEffect blk).expandEffect.roundsEffect.v = rounds64 s.h (blockSchedule s.msgByte blk) := by
    show rounds64 _ _ = _; rw [hv, wv]
  have hv' : (s.ldblkEffect blk).expandEffect.roundsEffect.hView = s.h := State.hView_eq hh
  refine ⟨hw, v, ?_, kw, kv, fun j hj => ?_⟩
  · show addWords _ _ = _
    rw [hv', State.vView_eq kv, v]; rfl
  · show (addKnown _ _)[j] = true
    rw [addKnown_getElem _ _ j hj]
    simp only [Bool.and_eq_true]
    exact ⟨hh j hj, kv j hj⟩

/-- DIGEST's first `n` blocks on specified bytes: the pure hash of those blocks, all specified (R171, R173). -/
theorem digestUpTo_known (s : State) (n : Nat) (h : s.Written 0 (64 * n)) :
    (s.digestUpTo n).h = hashBlocks s.msgByte n ∧ ∀ (j : Nat) (hj : j < 8), (s.digestUpTo n).hKnown[j] = true := by
  induction n with
  | zero => exact ⟨rfl, fun j hj => by simp [State.digestUpTo, State.initEffect, allKnown]⟩
  | succ n ih =>
    obtain ⟨ih1, ih2⟩ := ih fun x lo hi => h x lo (by omega)
    have hb : ∀ a, (s.digestUpTo n).msgByte a = s.msgByte a :=
      State.msgByte_congr' (State.digestUpTo_msg s n) (State.digestUpTo_draw s n)
    have hw : (s.digestUpTo n).Written (64 * n) 64 := fun x lo hi => by
      rw [State.digestUpTo_msg]; exact h x (by omega) (by omega)
    obtain ⟨-, -, h3, -, -, h6⟩ := block_known hw ih2
    refine ⟨?_, h6⟩
    show ((s.digestUpTo n).blockEffect n).h = _
    rw [h3, ih1, show (s.digestUpTo n).msgByte = s.msgByte from funext hb]; rfl

/-- DIGEST's blocks 0 .. n on specified bytes leave the last block's schedule in W and its rounds' result in V (R143, R171). -/
theorem digestUpTo_last (s : State) (n : Nat) (h : s.Written 0 (64 * (n + 1))) : LastBlock s n (s.digestUpTo (n + 1)) := by
  obtain ⟨ih1, ih2⟩ := digestUpTo_known s n fun x lo hi => h x lo (by omega)
  have hw : (s.digestUpTo n).Written (64 * n) 64 := fun x lo hi => by
    rw [State.digestUpTo_msg]; exact h x (by omega) (by omega)
  have hb : (s.digestUpTo n).msgByte = s.msgByte :=
    funext fun a => State.msgByte_congr' (State.digestUpTo_msg s n) (State.digestUpTo_draw s n) a
  obtain ⟨w, v, -, kw, kv, -⟩ := block_known hw ih2
  rw [hb] at w v
  exact ⟨w, by rw [← ih1]; exact v, fun k => kw k k.2, fun j => kv j j.2⟩

/-- A block's schedule depends on its 64 bytes alone (R174). -/
theorem blockSchedule_congr {f g : Nat → Byte} {blk : Nat} (h : ∀ a, 64 * blk ≤ a → a < 64 * blk + 64 → f a = g a) :
    blockSchedule f blk = blockSchedule g blk := by
  unfold blockSchedule
  refine expandWords_congr fun k hk => ?_
  rw [Vector.getElem_ofFn, Vector.getElem_ofFn, if_pos hk, if_pos hk, h (64 * blk + 4 * k) (by omega) (by omega),
    h (64 * blk + 4 * k + 1) (by omega) (by omega), h (64 * blk + 4 * k + 2) (by omega) (by omega),
    h (64 * blk + 4 * k + 3) (by omega) (by omega)]

/-- The hash of the first `n` blocks depends on their bytes alone (R174). -/
theorem hashBlocks_congr {f g : Nat → Byte} (n : Nat) (h : ∀ a, a < 64 * n → f a = g a) : hashBlocks f n = hashBlocks g n := by
  induction n with
  | zero => rfl
  | succ n ih =>
    rw [hashBlocks, hashBlocks, ih fun a ha => h a (by omega), compressBlock, compressBlock,
      blockSchedule_congr fun a _ ha => h a (by omega)]

end Sys2Proof.Machine
end

