-- ==== Sys2Proof/Laws/Agreement.lean ====
section
/-! SUPPORT. Agreement on specified values: what the reads, the schedule and the rounds give agrees wherever its mark says
specified (R33, U1). -/

namespace Sys2Proof.Machine

variable {s t : State}

theorem agree_hView (a : Agree s t) : AgreeOn s.hKnown s.hView t.hView := fun i hi hk => by
  rw [State.hView_getElem i hi hk, State.hView_getElem i hi (by rw [a.hKnown]; exact hk)]; exact a.h i hi hk

theorem agree_vView (a : Agree s t) : AgreeOn s.vKnown s.vView t.vView := fun i hi hk => by
  rw [State.vView_getElem i hi hk, State.vView_getElem i hi (by rw [a.vKnown]; exact hk)]; exact a.v i hi hk

theorem agree_wView (a : Agree s t) : AgreeOn s.wKnown s.wView t.wView := fun i hi hk => by
  rw [State.wView_getElem i hi hk, State.wView_getElem i hi (by rw [a.wKnown]; exact hk)]; exact a.w i hi hk

/-- The schedules of agreeing words agree (R142). -/
theorem agree_expandWords {k : Vector Bool 64} {x y : Vector Word 64} (h : AgreeOn k x y) :
    AgreeOn (expandKnown k) (expandWords x) (expandWords y) := by
  intro t ht
  induction t using Nat.strong_induction_on with
  | _ t ih =>
    by_cases lo : t < 16
    · rw [expandKnown_low _ _ lo, expandWords_low _ _ lo, expandWords_low _ _ lo]; exact h t ht
    · rw [expandKnown_high _ _ (by omega) ht, expandWords_high x _ (by omega) ht, expandWords_high y _ (by omega) ht]
      simp only [Bool.and_eq_true]
      rintro ⟨⟨⟨k1, k2⟩, k3⟩, k4⟩
      rw [ih (t - 16) (by omega) (by omega) k1, ih (t - 15) (by omega) (by omega) k2, ih (t - 7) (by omega) (by omega) k3,
        ih (t - 2) (by omega) (by omega) k4]

/-- One round of agreeing words with an agreeing schedule word agrees (R155). -/
theorem agree_roundStep {k : Vector Bool 8} {wk : Bool} {x y : Vector Word 8} {c u v : Word} (h : AgreeOn k x y)
    (hw : wk = true → u = v) : AgreeOn (roundStepKnown k wk) (roundStep x c u) (roundStep y c v) := by
  have t1 : k[7] = true → k[4] = true → k[5] = true → k[6] = true → wk = true → roundT1 x c u = roundT1 y c v :=
    fun p7 p4 p5 p6 pw => by simp only [roundT1, h _ _ p7, h _ _ p4, h _ _ p5, h _ _ p6, hw pw]
  have t2 : k[0] = true → k[1] = true → k[2] = true → roundT2 x = roundT2 y :=
    fun p0 p1 p2 => by simp only [roundT2, h _ _ p0, h _ _ p1, h _ _ p2]
  intro j hj
  obtain rfl | rfl | ⟨i, rfl, hi⟩ : j = 0 ∨ j = 4 ∨ ∃ i, j = i + 1 ∧ i ≠ 3 := by
    rcases j with _ | i
    · exact .inl rfl
    · by_cases e : i = 3
      · exact .inr (.inl (by omega))
      · exact .inr (.inr ⟨i, rfl, e⟩)
  · show (((((k[7] && k[4]) && k[5]) && k[6]) && wk) && ((k[0] && k[1]) && k[2])) = true →
      add32 (roundT1 x c u) (roundT2 x) = add32 (roundT1 y c v) (roundT2 y)
    simp only [Bool.and_eq_true]
    rintro ⟨⟨⟨⟨⟨p7, p4⟩, p5⟩, p6⟩, pw⟩, ⟨p0, p1⟩, p2⟩
    rw [t1 p7 p4 p5 p6 pw, t2 p0 p1 p2]
  · show (k[3] && ((((k[7] && k[4]) && k[5]) && k[6]) && wk)) = true →
      add32 x[3] (roundT1 x c u) = add32 y[3] (roundT1 y c v)
    simp only [Bool.and_eq_true]
    rintro ⟨p3, ⟨⟨⟨p7, p4⟩, p5⟩, p6⟩, pw⟩
    rw [h _ _ p3, t1 p7 p4 p5 p6 pw]
  · rw [roundStep_shift _ _ _ i hj hi, roundStep_shift _ _ _ i hj hi, roundStepKnown_shift _ _ i hj hi]
    exact h i (by omega)

/-- The 64 rounds of agreeing words with an agreeing schedule agree (R156). -/
theorem agree_rounds64 {k : Vector Bool 8} {wk : Vector Bool 64} {x y : Vector Word 8} {u v : Vector Word 64}
    (h : AgreeOn k x y) (hw : AgreeOn wk u v) : AgreeOn (rounds64Known k wk) (rounds64 x u) (rounds64 y v) := by
  have step : ∀ n, n ≤ 64 → AgreeOn (roundsKnownUpTo wk k n) (roundsUpTo kConst u x n) (roundsUpTo kConst v y n) := by
    intro n hn
    induction n with
    | zero => exact h
    | succ n ih =>
      simp only [roundsKnownUpTo, roundsUpTo, getD_eq _ (show n < 64 by omega)]
      exact agree_roundStep (ih (by omega)) (hw n (by omega))
  unfold rounds64Known rounds64
  exact step 64 (by omega)

end Sys2Proof.Machine
end

