-- ==== Sys2Proof/Laws/Encoding.lean ====
section
/-! SUPPORT. The two fields of a command word (R90): taking them apart and putting them together. -/

namespace Sys2Proof

/-- Bit `i` of a word put together from its two fields (R90). -/
theorem fields_getLsbD (o : BitVec 8) (l : BitVec 24) (i : Nat) :
    BitVec.getLsbD (w := 32) (o ++ l) i = if i < 24 then l.getLsbD i else o.getLsbD (i - 24) :=
  BitVec.getLsbD_append

@[simp] theorem opField_append (o : BitVec 8) (l : BitVec 24) : opField (o ++ l) = o := by
  apply BitVec.eq_of_getLsbD_eq; intro i hi
  simp [opField, fields_getLsbD, hi]

@[simp] theorem lowField_append (o : BitVec 8) (l : BitVec 24) : lowField (o ++ l) = l := by
  apply BitVec.eq_of_getLsbD_eq; intro i hi
  simp [lowField, fields_getLsbD, hi]

/-- R90: a word is its opcode and its low field. -/
theorem opField_lowField (c : Word) : opField c ++ lowField c = c := by
  apply BitVec.eq_of_getLsbD_eq; intro i hi
  rw [fields_getLsbD]
  simp only [opField, lowField, BitVec.getLsbD_extractLsb', Nat.zero_add]
  split
  · simp [*]
  · rw [show 24 + (i - 24) = i by omega, decide_eq_true (by omega), Bool.true_and]

@[simp] theorem opField_encode (i : Instr) : opField (encode i) = opcode i := opField_append ..
@[simp] theorem lowField_encode (i : Instr) : lowField (encode i) = operandField i := lowField_append ..

/-- A block index that fits its field comes back from it (R91). -/
theorem operand_toNat {blk : Nat} (h : blkFits blk = true) : (BitVec.ofNat 24 blk).toNat = blk := by
  simp only [blkFits, decide_eq_true_eq] at h
  rw [BitVec.toNat_ofNat, Nat.mod_eq_of_lt h]

/-- What a format Z word decodes to. -/
theorem decodeZ_ok {i j : Instr} {c : Word} (h : decodeZ i c = .ok j) : j = i ∧ lowField c = 0#24 := by
  unfold decodeZ at h; split at h
  · exact ⟨(Except.ok.inj h).symm, ‹_›⟩
  · cases h

/-- The mask of a format B row keeps the opcode (R92). -/
theorem mask_op (c : Word) : c &&& 0xFF000000#32 = (opField c ++ 0#24 : BitVec 32) := by
  conv_lhs => rw [← opField_lowField c]
  generalize opField c = o, lowField c = l
  apply BitVec.eq_of_getLsbD_eq; intro i hi
  have bit : ∀ i, i < 32 → (0xFF000000#32).getLsbD i = decide (24 ≤ i) := by decide
  rw [BitVec.getLsbD_and, fields_getLsbD, fields_getLsbD, bit i hi]
  split <;> simp <;> omega

/-- The mask of a format Z row keeps the whole word (R92). -/
theorem mask_all (c : Word) : c &&& 0xFFFFFFFF#32 = c := by
  rw [show 0xFFFFFFFF#32 = BitVec.allOnes 32 by decide, BitVec.and_allOnes]

end Sys2Proof
end

