-- ==== Sys2Proof/Laws/PerInstr.lean ====
section
/-! SUPPORT. Statements made per instruction. The family Row: the word of every command is in the command's own row of R92 and in no
other. -/

namespace Sys2Proof.Laws.Row

/-- R92, R93: the command's word matches exactly one row of the opcode map, the one with its mnemonic. -/
def Statement (i : Instr) : Prop :=
  ∃ r, opcodeTable.filter (·.matches (encode i)) = [r] ∧ r.mnemonic = mnemonicOf i

/-- A format B command is in the row of its opcode, whatever its block index. -/
theorem ofOpcode (o : BitVec 8) (l : BitVec 24) (r : OpRow)
    (h : ∀ q ∈ opcodeTable, q.matches (o ++ l : BitVec 32) = (q == r)) (hr : opcodeTable.filter (· == r) = [r]) :
    opcodeTable.filter (·.matches (o ++ l : BitVec 32)) = [r] := by
  rw [← hr]; exact List.filter_congr h

theorem init : Statement .init := ⟨⟨"INIT", .z, 0x01000000#32, 0xFFFFFFFF#32⟩, by decide, rfl⟩
theorem expand : Statement .expand := ⟨⟨"EXPAND", .z, 0x03000000#32, 0xFFFFFFFF#32⟩, by decide, rfl⟩
theorem rounds : Statement .rounds := ⟨⟨"ROUNDS", .z, 0x04000000#32, 0xFFFFFFFF#32⟩, by decide, rfl⟩
theorem addh : Statement .addh := ⟨⟨"ADDH", .z, 0x05000000#32, 0xFFFFFFFF#32⟩, by decide, rfl⟩
theorem digest : Statement .digest := ⟨⟨"DIGEST", .z, 0x07000000#32, 0xFFFFFFFF#32⟩, by decide, rfl⟩
theorem hex : Statement .hex := ⟨⟨"HEX", .z, 0x08000000#32, 0xFFFFFFFF#32⟩, by decide, rfl⟩
theorem hash : Statement .hash := ⟨⟨"HASH", .z, 0x09000000#32, 0xFFFFFFFF#32⟩, by decide, rfl⟩
theorem clrerr : Statement .clrerr := ⟨⟨"CLRERR", .z, 0x0F000000#32, 0xFFFFFFFF#32⟩, by decide, rfl⟩

/-- A word whose opcode is no format Z opcode matches a format Z row of another opcode never. -/
theorem noMatchZ {o p : BitVec 8} (l : BitVec 24) (h : o ≠ p) : ((o ++ l : BitVec 32) == (p ++ 0#24 : BitVec 32)) = false := by
  rw [beq_eq_false_iff_ne]; exact fun e => h (by simpa using congrArg opField e)

theorem ldblk (blk : Nat) : Statement (.ldblk blk) := by
  refine ⟨⟨"LDBLK", .b, 0x02000000#32, 0xFF000000#32⟩, ofOpcode 0x02#8 (BitVec.ofNat 24 blk) _ ?_ (by decide), rfl⟩
  have z := fun (p : BitVec 8) (h : 0x02#8 ≠ p) => noMatchZ (BitVec.ofNat 24 blk) h
  simp only [opcodeTable, List.forall_mem_cons, OpRow.matches, mask_op, mask_all, opField_append]
  exact ⟨z 0x01#8 (by decide), rfl, z 0x03#8 (by decide), z 0x04#8 (by decide), z 0x05#8 (by decide), rfl, z 0x07#8 (by decide),
    z 0x08#8 (by decide), z 0x09#8 (by decide), z 0x0F#8 (by decide), by simp⟩

theorem block (blk : Nat) : Statement (.block blk) := by
  refine ⟨⟨"BLOCK", .b, 0x06000000#32, 0xFF000000#32⟩, ofOpcode 0x06#8 (BitVec.ofNat 24 blk) _ ?_ (by decide), rfl⟩
  have z := fun (p : BitVec 8) (h : 0x06#8 ≠ p) => noMatchZ (BitVec.ofNat 24 blk) h
  simp only [opcodeTable, List.forall_mem_cons, OpRow.matches, mask_op, mask_all, opField_append]
  exact ⟨z 0x01#8 (by decide), rfl, z 0x03#8 (by decide), z 0x04#8 (by decide), z 0x05#8 (by decide), rfl, z 0x07#8 (by decide),
    z 0x08#8 (by decide), z 0x09#8 (by decide), z 0x0F#8 (by decide), by simp⟩

end Sys2Proof.Laws.Row
end

