-- ==== Sys2Proof/Laws/Port.lean ====
section
/-! SUPPORT. The host port: the register map range by range (R32, R33), and what a read and the end of an access depend on. -/

namespace Sys2Proof.Machine

variable {s : State}

/-! ## Reads do not depend on the script -/

@[simp] theorem State.withHost_statusWord (rest : List HostOp) : (s.withHost rest).statusWord = s.statusWord := rfl
@[simp] theorem State.withHost_hView (rest : List HostOp) : (s.withHost rest).hView = s.hView := by unfold State.hView; rfl
@[simp] theorem State.withHost_vView (rest : List HostOp) : (s.withHost rest).vView = s.vView := by unfold State.vView; rfl
@[simp] theorem State.withHost_wView (rest : List HostOp) : (s.withHost rest).wView = s.wView := by unfold State.wView; rfl
@[simp] theorem State.withHost_outView (rest : List HostOp) : (s.withHost rest).outView = s.outView := by
  unfold State.outView; rfl

@[simp] theorem State.withHost_readReg (rest : List HostOp) (r : Nat) : (s.withHost rest).readReg r = s.readReg r := by
  unfold State.readReg State.outWord
  rw [State.withHost_hView, State.withHost_vView, State.withHost_wView, State.withHost_outView]; rfl

@[simp] theorem State.withHost_readMsg (rest : List HostOp) (a : Nat) : (s.withHost rest).readMsg a = s.readMsg a := rfl

/-! ## The end of an access -/

theorem State.afterAccess_busy {t : State} (h : s.busy = true) : s.afterAccess t = t.tick := by simp [State.afterAccess, h]

theorem State.afterAccess_idle {t : State} (h : s.busy = false) : s.afterAccess t = t := by simp [State.afterAccess, h]

/-- After reset STATUS reads 0 (R38). -/
theorem State.statusWord_zero (hb : s.engine = .idle) (hd : s.done = false) (he : s.err = false) (hc : s.errCode = 0#4) :
    s.statusWord = 0#32 := by
  simp [State.statusWord, State.busy_eq_false.2 hb, hd, he, hc]

/-! ## The register map -/

/-- Register numbers 8..15 are H (R32). -/
theorem State.readReg_h (j : Nat) (hj : j < 8) : s.readReg (8 + j) = s.settled (8 + j) s.hView[j] := by
  unfold State.readReg hReg vReg outReg wReg kReg lutReg
  iterate 3 rw [if_neg (by omega)]
  rw [if_pos ⟨Nat.le_add_right 8 j, by omega⟩, Nat.add_sub_cancel_left, getD_eq _ hj]

/-- Register numbers 16..23 are V (R32). -/
theorem State.readReg_v (j : Nat) (hj : j < 8) : s.readReg (16 + j) = s.settled (16 + j) s.vView[j] := by
  unfold State.readReg hReg vReg outReg wReg kReg lutReg
  iterate 4 rw [if_neg (by omega)]
  rw [if_pos ⟨Nat.le_add_right 16 j, by omega⟩, Nat.add_sub_cancel_left, getD_eq _ hj]

/-- Register numbers 32..47 are OUTW (R32). -/
theorem State.readReg_out (j : Nat) (hj : j < 16) : s.readReg (32 + j) = s.settled (32 + j) (s.outWord j) := by
  unfold State.readReg hReg vReg outReg wReg kReg lutReg
  iterate 5 rw [if_neg (by omega)]
  rw [if_pos ⟨Nat.le_add_right 32 j, by omega⟩, Nat.add_sub_cancel_left]

/-- Register numbers 64..127 are W (R32). -/
theorem State.readReg_w (k : Nat) (hk : k < 64) : s.readReg (64 + k) = s.settled (64 + k) s.wView[k] := by
  unfold State.readReg hReg vReg outReg wReg kReg lutReg
  iterate 6 rw [if_neg (by omega)]
  rw [if_pos ⟨Nat.le_add_right 64 k, by omega⟩, Nat.add_sub_cancel_left, getD_eq _ hk]

/-- Register numbers 128..191 are K, whatever the state (R32, R40). -/
theorem State.readReg_k (k : Nat) (hk : k < 64) : s.readReg (128 + k) = kConst[k] := by
  unfold State.readReg hReg vReg outReg wReg kReg lutReg
  iterate 7 rw [if_neg (by omega)]
  rw [if_pos ⟨Nat.le_add_right 128 k, by omega⟩, Nat.add_sub_cancel_left, getD_eq _ hk]

/-- Register numbers 256..511 are LUT, whatever the state (R32, R40). -/
theorem State.readReg_lut (b : Nat) (hb : b < 256) : s.readReg (256 + b) = lutWord b := by
  unfold State.readReg hReg vReg outReg wReg kReg lutReg
  iterate 8 rw [if_neg (by omega)]
  rw [if_pos ⟨Nat.le_add_right 256 b, by omega⟩, Nat.add_sub_cancel_left]

/-- An entry of LUT: the two characters of the byte (R25). -/
theorem lutWord_eq (b : Nat) (hb : b < 256) : lutWord b = 0#16 ++ hexChar (b / 16) ++ hexChar (b % 16) := by
  unfold lutWord; rw [lut_eq, BitVec.toNat_ofNat, Nat.mod_eq_of_lt (by omega)]

/-- Register numbers of no register read 0 (R30, R33, R34). -/
theorem State.readReg_none (r : Nat)
    (h : r = 0 ∨ (4 ≤ r ∧ r < 8) ∨ (24 ≤ r ∧ r < 32) ∨ (48 ≤ r ∧ r < 64) ∨ (192 ≤ r ∧ r < 256) ∨ 512 ≤ r) :
    s.readReg r = 0#32 := by
  unfold State.readReg hReg vReg outReg wReg kReg lutReg
  iterate 9 rw [if_neg (by omega)]

/-- In the BUSY window every register of H, V, OUTW and W reads as a free value (R33, U2). -/
theorem State.readReg_window (h : s.busy = true) (r : Nat)
    (hr : (8 ≤ r ∧ r < 24) ∨ (32 ≤ r ∧ r < 48) ∨ (64 ≤ r ∧ r < 128)) : s.readReg r = Config.freeWord s.draw r := by
  have free : ∀ x, s.settled r x = Config.freeWord s.draw r := fun x => by simp [State.settled, h]
  unfold State.readReg hReg vReg outReg wReg kReg lutReg
  simp only [free]
  split_ifs <;> first | omega | rfl

end Sys2Proof.Machine
end

