-- ==== Sys2Proof/Tests/Slice0.lean ====
section
/-! SUPPORT. Tests on fixed values, each expected value taken from the file of spec/ its comment names, and for every statement of
Certificates/Slice0/Obligations.lean with hypotheses a witness that meets them together. -/

namespace Sys2Proof.Machine

/-! ## States the tests start from -/

/-- `state` with BUSY_STEPS 0 given for the next command, if it is `i`. -/
def State.instant (i : Instr) (s : State) : State := { s with windows := [⟨i, 0⟩] }

/-- After reset, with BUSY_STEPS 0 given for INIT. -/
def idleState : State := State.reset.instant .init

/-- A command has two accesses of its BUSY window to go. -/
def busyState : State := { State.reset with engine := .executing .hash 2 }

/-- IllegalCommand is recorded. -/
def faultedState : State := { State.reset with err := true, errCode := 2#4, windows := [⟨.clrerr, 0⟩] }

/-- `state` with the accesses `ops` to come. -/
def State.script (ops : List HostOp) (s : State) : State := { s with host := ops }

/-- `state` with another LEN. -/
def State.lenOf (n : Nat) (s : State) : State := { s with len := BitVec.ofNat 32 n }

/-- The 64 bytes of Pad("abc") (95_test_vectors.md section 3). -/
def abcBytes : List Byte :=
  [0x61#8, 0x62#8, 0x63#8, 0x80#8] ++ List.replicate 59 0#8 ++ [0x18#8]

/-- Pad("abc") is loaded. -/
def abcState : State := { idleState with msg := (List.range 64).zip abcBytes, len := 64#32 }

/-- Pad("abc") is loaded and H is the IV. -/
def abcInit : State := { abcState with h := iv, hKnown := allKnown }

/-- W[0..15] hold the words of Pad("abc"), specified; the rest of W is not. -/
def abcLoaded : State :=
  { abcInit with
    w := Vector.ofFn fun t => if t.val = 0 then 0x61626380#32 else if t.val = 15 then 0x18#32 else 0#32
    wKnown := Vector.ofFn fun t => decide (t.val < 16) }

/-- W holds the schedule of "abc", all specified. -/
def abcExpanded : State := { abcLoaded with w := expandWords abcLoaded.w, wKnown := Vector.replicate 64 true }

/-- V holds row 63 of the trace of "abc". -/
def abcRounds : State :=
  { abcInit with
    v := #v[0x506e3058#32, 0xd39a2165#32, 0x04d24d6c#32, 0xb85e2ce9#32, 0x5ef50f24#32, 0xfb121210#32, 0x948d25b6#32, 0x961f4894#32]
    vKnown := allKnown }

/-- H holds the digest of "abc". -/
def abcDigest : Vector Word 8 :=
  #v[0xba7816bf#32, 0x8f01cfea#32, 0x414140de#32, 0x5dae2223#32, 0xb00361a3#32, 0x96177a9c#32, 0xb410ff61#32, 0xf20015ad#32]

/-! ## Well-formedness and encoding (30_encoding.md) -/

/-- R91: the block index has 24 bits; the largest fits, the next does not. -/
theorem test_ldblk_index_fits : Instr.wellFormed (.ldblk 16777215) = true ∧ Instr.wellFormed (.ldblk 16777216) = false := by decide
theorem test_block_index_fits : Instr.wellFormed (.block 16777215) = true ∧ Instr.wellFormed (.block 16777216) = false := by decide

/-- R92: a word of each row, written out as op in bits 31:24 and the low field in bits 23:0. -/
theorem test_decode_init : decode 0b00000001_000000000000000000000000#32 = .ok .init := by decide
theorem test_decode_ldblk : decode 0b00000010_000000010000000000000010#32 = .ok (.ldblk 65538) := by decide
theorem test_decode_expand : decode 0b00000011_000000000000000000000000#32 = .ok .expand := by decide
theorem test_decode_rounds : decode 0b00000100_000000000000000000000000#32 = .ok .rounds := by decide
theorem test_decode_addh : decode 0b00000101_000000000000000000000000#32 = .ok .addh := by decide
theorem test_decode_block : decode 0b00000110_100000000000000000000001#32 = .ok (.block 8388609) := by decide
theorem test_decode_digest : decode 0b00000111_000000000000000000000000#32 = .ok .digest := by decide
theorem test_decode_hex : decode 0b00001000_000000000000000000000000#32 = .ok .hex := by decide
theorem test_decode_hash : decode 0b00001001_000000000000000000000000#32 = .ok .hash := by decide
theorem test_decode_clrerr : decode 0b00001111_000000000000000000000000#32 = .ok .clrerr := by decide

/-- R94 (b): format Z with a low bit set, the lowest and the highest. -/
theorem test_decode_nonzero_field :
    decode 0x03000001#32 = .error (.nonzeroField 0x03#8) ∧ decode 0x0F800000#32 = .error (.nonzeroField 0x0F#8) := by decide

/-- R94 (a): the neighbours of the opcodes of R92. -/
theorem test_decode_unknown :
    decode 0x0A000000#32 = .error (.unknownOpcode 0x0A#8) ∧ decode 0x0E000000#32 = .error (.unknownOpcode 0x0E#8) ∧
    decode 0x10000000#32 = .error (.unknownOpcode 0x10#8) := by decide

/-! ## The datapath (95_test_vectors.md section 2) -/

theorem test_rotr : rotr 0x12345678#32 1 = 0x091a2b3c#32 ∧ rotr 0x510e527f#32 7 = 0xfea21ca4#32 := by decide
theorem test_ssig0 : ssig0 0x12345678#32 = 0xe7fce6ee#32 ∧ ssig0 0x80000000#32 = 0x11002000#32 := by decide
theorem test_ssig1 : ssig1 0x12345678#32 = 0xa1f78649#32 ∧ ssig1 0x80000000#32 = 0x00205000#32 := by decide
theorem test_bsig0 : bsig0 0x6a09e667#32 = 0xce20b47e#32 ∧ bsig0 0x00000001#32 = 0x40080400#32 := by decide
theorem test_bsig1 : bsig1 0x510e527f#32 = 0x3587272b#32 ∧ bsig1 0x00000001#32 = 0x04200080#32 := by decide
theorem test_maj : maj 0x510e527f#32 0x9b05688c#32 0x1f83d9ab#32 = 0x1b0758af#32 := by decide

/-- Section 7: LUT entries as register words. -/
theorem test_lut : lutWord 0x00 = 0x3030#32 ∧ lutWord 0x0a = 0x3061#32 ∧ lutWord 0xab = 0x6162#32 ∧ lutWord 0xff = 0x6666#32 := by
  decide +kernel

/-! ## The commands (95_test_vectors.md sections 3, 7, 9) -/

theorem idle_ready : idleState.Ready := ⟨rfl, rfl⟩
theorem abc_ready : abcState.Ready := ⟨rfl, rfl⟩
theorem abcInit_ready : abcInit.Ready := ⟨rfl, rfl⟩

/-- Block 0 lies inside Pad("abc"), which fills the smallest memory exactly (R6, R141). -/
theorem abc_inside : abcState.BlockInside 0 := by
  have := Config.msgBytes_ge
  unfold State.BlockInside; rw [show abcState.len.toNat = 64 from rfl]; omega

theorem abcInit_inside : abcInit.BlockInside 0 := abc_inside

/-- Every byte of Pad("abc") is written. -/
theorem abc_written : abcState.Written 0 64 := by
  have : ∀ x, x < 64 → (Mem.find abcState.msg x).isSome = true := by decide +kernel
  exact fun x _ hi => this x (by omega)

theorem abc_length : abcState.len.toNat % 64 = 0 ∧ abcState.len.toNat ≤ Config.msgBytes := by
  have := Config.msgBytes_ge
  rw [show abcState.len.toNat = 64 from rfl]; omega

/-- R132: H[0] and H[7] of the IV, all specified. -/
theorem test_init : ∃ t, exec .init idleState = .next t ∧ t.h[0] = 0x6a09e667#32 ∧ t.h[7] = 0x5be0cd19#32 ∧ t.hKnown[7] = true ∧
    t.done = true := ⟨_, rfl, by decide +kernel, by decide +kernel, by decide +kernel, by decide +kernel⟩

/-- Section 9, step 4: CLRERR leaves STATUS 2. -/
theorem test_clrerr : ∃ t, exec .clrerr faultedState = .next t ∧ t.statusWord = 2#32 := ⟨_, rfl, by decide +kernel⟩

/-- Section 3: the first and the last word of the block, and what LDBLK leaves unspecified. -/
theorem test_ldblk : ∃ t, exec (.ldblk 0) (abcState.instant (.ldblk 0)) = .next t ∧ t.w[0] = 0x61626380#32 ∧ t.w[15] = 0x18#32 ∧
    t.wKnown[15] = true ∧ t.wKnown[16] = false :=
  ⟨_, exec_accepted (s := abcState.instant (.ldblk 0)) abc_ready (.ldblk 0) (checkBlock_inside abc_inside), by decide +kernel, by decide +kernel, by decide +kernel,
    by decide +kernel⟩

/-- Section 9, step 13: LDBLK 1 with LEN = 100 raises BlockRange. -/
theorem test_ldblk_outside : ∃ t, exec (.ldblk 1) (abcState.lenOf 100) = .next t ∧ t.statusWord = 0x44#32 := by
  refine ⟨_, exec_turnedAway ⟨rfl, rfl⟩ (.ldblk 1) (checkBlock_outside ?_), by decide +kernel⟩
  rw [show (abcState.lenOf 100).len.toNat = 100 from rfl]; omega

/-- Section 3: W[16], W[18] and W[63] of the schedule of "abc". -/
theorem test_expand : ∃ t, exec .expand (abcLoaded.instant .expand) = .next t ∧ t.w[16] = 0x61626380#32 ∧ t.w[18] = 0x7da86405#32 ∧
    t.w[63] = 0x12b1edeb#32 ∧ t.wKnown[63] = true :=
  ⟨_, rfl, by decide +kernel, by decide +kernel, by decide +kernel, by decide +kernel⟩

/-- Section 3, row 63: what ROUNDS leaves in V. -/
theorem test_rounds : ∃ t, exec .rounds (abcExpanded.instant .rounds) = .next t ∧ t.v = abcRounds.v := ⟨_, rfl, by decide +kernel⟩

/-- Section 3, row 0: the round on the IV with K[0] and W[0]. -/
theorem test_round_step : roundStep iv 0x428a2f98#32 0x61626380#32 =
    #v[0x5d6aebcd#32, 0x6a09e667#32, 0xbb67ae85#32, 0x3c6ef372#32, 0xfa2a4622#32, 0x510e527f#32, 0x9b05688c#32, 0x1f83d9ab#32] := by
  decide +kernel

/-- Section 3: H after ADDH. -/
theorem test_addh : ∃ t, exec .addh (abcRounds.instant .addh) = .next t ∧ t.h = abcDigest := ⟨_, rfl, by decide +kernel⟩

/-- Section 3: a second ADDH adds V again. -/
theorem test_addh_twice : ∃ t, exec .addh ({ abcRounds with h := abcDigest }.instant .addh) = .next t ∧ t.h[0] = 0x0ae64717#32 ∧ t.h[7] = 0x881f5e41#32 :=
  ⟨_, rfl, by decide +kernel, by decide +kernel⟩

/-- Section 3: BLOCK 0 from the IV gives the digest. -/
theorem test_block : ∃ t, exec (.block 0) (abcInit.instant (.block 0)) = .next t ∧ t.h = abcDigest :=
  ⟨_, exec_accepted (s := abcInit.instant (.block 0)) abcInit_ready (.block 0) (checkBlock_inside abcInit_inside), by decide +kernel⟩

/-- Section 3: DIGEST of "abc". -/
theorem test_digest : ∃ t, exec .digest (abcState.instant .digest) = .next t ∧ t.h = abcDigest :=
  ⟨_, exec_accepted (s := abcState.instant .digest) abc_ready .digest (checkLength_ok abc_length.1 abc_length.2), by decide +kernel⟩

/-- Section 9, step 2: DIGEST with LEN = 65 leaves STATUS 14H. -/
theorem test_digest_length : ∃ t, exec .digest (abcState.lenOf 65) = .next t ∧ t.statusWord = 0x14#32 := ⟨_, rfl, by decide +kernel⟩

/-- Section 7: the first and the last character of the IV. -/
theorem test_hex : ∃ t, exec .hex (abcInit.instant .hex) = .next t ∧ t.out[0] = 0x36#8 ∧ t.out[1] = 0x61#8 ∧ t.out[63] = 0x39#8 :=
  ⟨_, rfl, by decide +kernel, by decide +kernel, by decide +kernel⟩

/-- Section 9, step 10: HASH with LEN = 0 leaves the characters of the IV. -/
theorem test_hash_empty : ∃ t, exec .hash ((idleState.lenOf 0).instant .hash) = .next t ∧ t.out = hexEncode iv ∧ t.statusWord = 2#32 := by
  refine ⟨_, exec_accepted ⟨rfl, rfl⟩ .hash (checkLength_ok rfl ?_), by decide +kernel, by decide +kernel⟩
  rw [show ((idleState.lenOf 0).instant .hash).len.toNat = 0 from rfl]; omega

/-- Section 3: OUT after HASH of "abc" begins `ba78` and ends `15ad`. -/
theorem test_hash : ∃ t, exec .hash (abcState.instant .hash) = .next t ∧ t.out[0] = 0x62#8 ∧ t.out[1] = 0x61#8 ∧ t.out[62] = 0x61#8 ∧
    t.out[63] = 0x64#8 := by
  refine ⟨_, exec_accepted (s := abcState.instant .hash) abc_ready .hash (checkLength_ok abc_length.1 abc_length.2), ?_⟩
  decide +kernel

/-! ## The protocol (95_test_vectors.md section 9) -/

/-- Steps 5 and 11: an illegal word leaves STATUS 24H. -/
theorem test_illegal : ∃ t, step (idleState.script [.regWrite 0 0x01000001#32]) = .next t ∧ t.statusWord = 0x24#32 :=
  ⟨_, rfl, by decide +kernel⟩

/-- In the window STATUS reads 1; a write to LEN then leaves 35H, and the last access of the window 36H. -/
theorem test_window_read : ∃ t, step (busyState.script [.regRead 1]) = .next t ∧ t.replies = [.reg 1 1#32] := ⟨_, rfl, by decide +kernel⟩

theorem test_window_write : ∃ t, step (busyState.script [.regWrite 2 0#32]) = .next t ∧ t.statusWord = 0x35#32 :=
  ⟨_, rfl, by decide +kernel⟩

theorem test_window_end : ∃ t, step { busyState with engine := .executing .hash 1, err := true, errCode := 3#4 } = .next t ∧
    t.statusWord = 0x36#32 := ⟨_, rfl, by decide +kernel⟩

/-- R261: BUSY_STEPS given for one command says nothing of another, which keeps its free value. -/
theorem test_window_of_command : ({ State.reset with windows := [⟨.init, 2⟩] } : State).nextWindow .init = 2 ∧
    ({ State.reset with windows := [⟨.init, 2⟩] } : State).nextWindow .hash =
      Config.busySteps .hash { State.reset with windows := [⟨.init, 2⟩] } := ⟨rfl, rfl⟩

/-- R131: a command with BUSY_STEPS 2 leaves BUSY 1 and DONE 0. -/
theorem test_window_opens : ∃ t, exec .init { State.reset with windows := [⟨.init, 2⟩] } = .next t ∧ t.statusWord = 1#32 ∧
    t.engine = .executing .init 2 := ⟨_, rfl, by decide +kernel, by decide +kernel⟩

/-- The word placed by `withFetchWord` runs at once, from reset. -/
theorem test_fetch : ∃ t, step (State.reset.withFetchWord 32 0x01000000) = .next t ∧ t.h = iv :=
  ⟨_, rfl, State.openWindow_h _ .init _⟩

/-! ## The host procedures (95_test_vectors.md sections 3, 6, 8) -/

theorem test_pad_abc : pad [0x61#8, 0x62#8, 0x63#8] = abcBytes := by decide +kernel

/-- R203, R204: 55 bytes fit one block, 56 do not. -/
theorem test_padded_length : paddedLength 0 = 64 ∧ paddedLength 55 = 64 ∧ paddedLength 56 = 128 ∧ paddedLength 119 = 128 ∧
    paddedLength 120 = 192 ∧ paddedLength 1000 = 1024 := by decide

/-- Section 8: U+0061 U+00E9 U+20AC U+1F600. -/
theorem test_utf8 : utf8 Config.badCodePoint [0x61, 0xE9, 0x20AC, 0x1F600] =
    .ok [0x61#8, 0xc3#8, 0xa9#8, 0xe2#8, 0x82#8, 0xac#8, 0xf0#8, 0x9f#8, 0x98#8, 0x80#8] := by rfl

/-- R202: a surrogate is no scalar value. -/
theorem test_utf8_surrogate : utf8 .fail [0xD800] = .error .badCodePoint ∧
    utf8 .replace [0xDFFF] = .ok [0xef#8, 0xbf#8, 0xbd#8] := by decide

/-- R96: a statement of the script and its accesses. -/
theorem test_script : scriptOps [.wrlen 64#32, .command (.block 2), .wait, .rd (.h 7)] =
    [.regWrite 2 64#32, .regWrite 0 0x06000002#32, .wait, .regRead 15] := by decide

/-! ## Witnesses: encoding and the step -/

theorem witness_wellFormed : (Instr.ldblk 16777215).WellFormed ∧ (Instr.block 0).WellFormed ∧ Instr.init.WellFormed := by decide

theorem witness_decodes : decode 0x02FFFFFF#32 = .ok (.ldblk 16777215) := by decide

/-- AnyBlockIndexIsLegal, at the block index that LEN = 100 just leaves out. -/
theorem witness_anyBlockIndex : (idleState.lenOf 100).Ready ∧ ¬ (idleState.lenOf 100).BlockInside (1#24).toNat := by
  refine ⟨⟨rfl, rfl⟩, ?_⟩
  unfold State.BlockInside; rw [show (idleState.lenOf 100).len.toNat = 100 from rfl]; simp

theorem reset_inv : State.reset.Inv where
  mem := State.reset_mem_wf
  code := by simp [State.reset]
  busyDone := fun h => by cases h
  window := fun _ _ h => by cases h
  alphabet := fun i h => by simp [State.reset] at h

theorem witness_step : State.reset.Inv ∧ ∃ t, step State.reset = .next t := ⟨reset_inv, _, rfl⟩

/-- StepRunsDecodedCommand, idle and in a window. -/
theorem witness_stepRuns :
    (idleState.script [.regWrite 0 0x01000000#32]).host = .regWrite 0 0x01000000#32 :: [] ∧
    (busyState.script [.regWrite 0 0x01000000#32]).host = .regWrite 0 0x01000000#32 :: [] ∧ busyState.busy = true ∧
    decode 0x01000000#32 = .ok .init := ⟨rfl, rfl, rfl, rfl⟩

theorem witness_fetchWord : (Instr.block 16777215).WellFormed ∧ State.reset.busy = false := by decide

/-- IllegalWordRaisesIllegalCommand: its three clauses. -/
theorem witness_illegalWord :
    (idleState.script [.regWrite 0 0xFFFFFFFF#32]).host = .regWrite 0 0xFFFFFFFF#32 :: [] ∧ decode 0xFFFFFFFF#32 = .error (.unknownOpcode 0xFF#8) ∧
    idleState.Ready ∧ (faultedState.busy = false ∧ faultedState.err = true) ∧ busyState.busy = true :=
  ⟨rfl, by decide, idle_ready, ⟨rfl, rfl⟩, rfl⟩

theorem witness_inWindow : busyState.busy = true := rfl

theorem witness_whileFaulted : faultedState.busy = false ∧ faultedState.err = true ∧ Instr.init ≠ .clrerr := by decide

/-! ## Witnesses: the commands and the faults -/

/-- INIT, EXPAND, ROUNDS, ADDH, HEX. -/
theorem witness_ready : idleState.Ready := idle_ready

/-- ROUNDS with H and W specified. -/
theorem witness_rounds_known : abcExpanded.Ready ∧ (∀ j : Fin 8, abcExpanded.hKnown[j] = true) ∧
    (∀ k : Fin 64, abcExpanded.wKnown[k] = true) := ⟨⟨rfl, rfl⟩, by decide +kernel, by decide +kernel⟩

/-- CLRERR, with a fault recorded and without. -/
theorem witness_clrerr : faultedState.busy = false ∧ idleState.busy = false := ⟨rfl, rfl⟩

/-- LDBLK, at the last block index LEN = 64 lets in. -/
theorem witness_ldblk : abcState.Ready ∧ abcState.BlockInside 0 := ⟨abc_ready, abc_inside⟩

/-- BLOCK, BlockEqualsItsFourPrimitives. -/
theorem witness_block : abcInit.Ready ∧ abcInit.BlockInside 0 ∧ abcInit.Written (64 * 0) 64 ∧ ∀ j : Fin 8, abcInit.hKnown[j] = true :=
  ⟨abcInit_ready, abcInit_inside, abc_written, by decide +kernel⟩

/-- DIGEST, HASH, HashEqualsDigestThenHex; the one block of "abc" is the last one too. -/
theorem witness_digest : abcState.Ready ∧ abcState.len.toNat % 64 = 0 ∧ abcState.len.toNat ≤ Config.msgBytes ∧
    abcState.Written 0 abcState.len.toNat ∧ abcState.len.toNat = 64 * (0 + 1) :=
  ⟨abc_ready, abc_length.1, abc_length.2, abc_written, rfl⟩

/-- DIGEST and HASH with LEN = 0. -/
theorem witness_digest_empty : idleState.Ready ∧ idleState.len.toNat % 64 = 0 ∧ idleState.len.toNat ≤ Config.msgBytes ∧
    idleState.len = 0#32 := ⟨idle_ready, rfl, Nat.zero_le _, rfl⟩

/-- The number `n` as a value of LEN, for n up to MSG_BYTES + 64. -/
theorem lenOf_toNat (n : Nat) (h : n ≤ Config.msgBytes + 64) (s : State) : (s.lenOf n).len.toNat = n := by
  have := Config.msgBytes_le
  show (BitVec.ofNat 32 n).toNat = n
  rw [BitVec.toNat_ofNat, Nat.mod_eq_of_lt (by omega)]

/-- DIGEST at the largest LEN it accepts. -/
theorem witness_digest_full : (idleState.lenOf Config.msgBytes).Ready ∧ (idleState.lenOf Config.msgBytes).len.toNat % 64 = 0 ∧
    (idleState.lenOf Config.msgBytes).len.toNat ≤ Config.msgBytes := by
  rw [lenOf_toNat _ (by omega)]; exact ⟨⟨rfl, rfl⟩, Config.msgBytes_mod, le_refl _⟩

/-- BlockRangeIsRaised: the first block outside, and the first LEN above MSG_BYTES that is a multiple of 64. -/
theorem witness_blockRange : abcState.Ready ∧ 64 * (1 + 1) > min abcState.len.toNat Config.msgBytes ∧
    (idleState.lenOf (Config.msgBytes + 64)).Ready ∧ (idleState.lenOf (Config.msgBytes + 64)).len.toNat % 64 = 0 ∧
    (idleState.lenOf (Config.msgBytes + 64)).len.toNat > Config.msgBytes := by
  have := Config.msgBytes_mod
  rw [lenOf_toNat _ (le_refl _), show abcState.len.toNat = 64 from rfl]
  exact ⟨abc_ready, by omega, ⟨rfl, rfl⟩, by omega, by omega⟩

/-- BufferInvariantViolationIsRaisedFirst: LEN one above a multiple of 64, and one above MSG_BYTES. -/
theorem witness_bufferInvariant : (idleState.lenOf 65).Ready ∧ (idleState.lenOf 65).len.toNat % 64 ≠ 0 ∧
    (idleState.lenOf (Config.msgBytes + 1)).Ready ∧ (idleState.lenOf (Config.msgBytes + 1)).len.toNat % 64 ≠ 0 := by
  have := Config.msgBytes_mod
  rw [lenOf_toNat (Config.msgBytes + 1) (by omega), show (idleState.lenOf 65).len.toNat = 65 from rfl]
  exact ⟨⟨rfl, rfl⟩, by omega, ⟨rfl, rfl⟩, by omega⟩

theorem witness_precise : (idleState.lenOf 65).Ready ∧ ∃ t, exec .digest (idleState.lenOf 65) = .next t ∧ t.err = true :=
  ⟨⟨rfl, rfl⟩, _, rfl, by decide +kernel⟩

/-- OnlyClrerrOrResetClearsTheFault: by RESET and by CLRERR. -/
theorem witness_clears : faultedState.err = true ∧ (∃ t, step (faultedState.script [.reset]) = .next t ∧ t.err = false) ∧
    ∃ t, step (faultedState.script [.regWrite 0 0x0F000000#32]) = .next t ∧ t.err = false :=
  ⟨rfl, ⟨_, rfl, by decide +kernel⟩, _, rfl, by decide +kernel⟩

theorem witness_keepsCode : faultedState.err = true ∧
    ∃ t, step (faultedState.script [.regWrite 0 0xFFFFFFFF#32]) = .next t ∧ t.err = true := ⟨rfl, _, rfl, by decide +kernel⟩

/-- NoCommandWritesTheMessage, EachRegisterHasItsWriters. -/
theorem witness_exec : ∃ t, exec .init idleState = .next t := ⟨_, rfl⟩

/-- UnspecifiedNeverReachesSpecified: two states that differ in the value of an unspecified H and in the draws. -/
theorem witness_agree : ∃ s' t', Agree idleState { idleState with h := iv, draw := 7 } ∧
    idleState.nextWindow .init = ({ idleState with h := iv, draw := 7 } : State).nextWindow .init ∧
    exec .init idleState = .next s' ∧ exec .init { idleState with h := iv, draw := 7 } = .next t' := by
  refine ⟨_, _, ?_, rfl, rfl, rfl⟩
  exact { hKnown := rfl, h := fun i hi hk => by simp [idleState, State.instant, State.reset] at hk, vKnown := rfl, v := fun _ _ _ => rfl,
          wKnown := rfl, w := fun _ _ _ => rfl, outKnown := rfl, out := fun _ _ _ => rfl, msg := rfl, len := rfl, done := rfl,
          err := rfl, errCode := rfl, engine := rfl, windows := rfl }

/-- DigestDependsOnTheMessageAlone: the same message behind two different pasts. -/
theorem witness_digestDepends : abcState.Ready ∧ abcRounds.Ready ∧ abcState.len = abcRounds.len ∧ abcState.len.toNat % 64 = 0 ∧
    abcState.len.toNat ≤ Config.msgBytes ∧ abcState.Written 0 abcState.len.toNat ∧
    ∀ a, a < abcState.len.toNat → Mem.find abcRounds.msg a = Mem.find abcState.msg a :=
  ⟨abc_ready, ⟨rfl, rfl⟩, rfl, abc_length.1, abc_length.2, abc_written, fun _ _ => rfl⟩

/-! ## Witnesses: the host port -/

/-- RegisterMapReads: registers of each bank specified at both ends, and the ends of every gap in the map. -/
theorem witness_registerMap : abcInit.busy = false ∧ abcInit.hKnown[0] = true ∧ abcInit.hKnown[7] = true ∧
    abcRounds.vKnown[0] = true ∧ abcRounds.vKnown[7] = true ∧ abcExpanded.wKnown[0] = true ∧ abcExpanded.wKnown[63] = true ∧
    (abcInit.hexEffect).outKnown[60] = true ∧ (abcInit.hexEffect).outKnown[63] = true ∧
    ∀ r ∈ [4, 7, 24, 31, 48, 63, 192, 255, 512],
      (4 ≤ r ∧ r < 8) ∨ (24 ≤ r ∧ r < 32) ∨ (48 ≤ r ∧ r < 64) ∨ (192 ≤ r ∧ r < 256) ∨ 512 ≤ r := by
  refine ⟨rfl, ?_⟩
  decide +kernel

/-- WindowReadsOfControlAndConstants: the last byte of "abc", and the ends of the ranges that read as free values. -/
theorem witness_windowReads : { busyState with msg := abcState.msg }.busy = true ∧ 63 < Config.msgBytes ∧
    Mem.find { busyState with msg := abcState.msg }.msg 63 = some 0x18#8 ∧
    ∀ r ∈ [8, 23, 32, 47, 64, 127], (8 ≤ r ∧ r < 24) ∨ (32 ≤ r ∧ r < 48) ∨ (64 ≤ r ∧ r < 128) := by
  have := Config.msgBytes_ge
  exact ⟨rfl, by omega, by decide +kernel, by decide⟩

/-- ConstantsNeverChange: a run, and the ends of the two ranges of constants. -/
theorem witness_run_ranges : ∀ r ∈ [128, 191, 256, 511], 128 ≤ r ∧ (r < 192 ∨ (256 ≤ r ∧ r < 512)) := by decide

theorem witness_run : ∃ t, core.run 2 (idleState.script [.regWrite 0 0x01000000#32, .regRead 128]) = .next t := ⟨_, rfl⟩

/-- ReadsHaveNoSideEffect, RegisterWritesStoreOnlyLen: the script's first access, idle and in a window. -/
theorem witness_firstAccess : (idleState.script [.regRead 511]).host = .regRead 511 :: [] ∧
    (busyState.script [.msgRead 0]).host = .msgRead 0 :: [] ∧
    (idleState.script [.regWrite 2 0xFFFFFFFF#32]).host = .regWrite 2 0xFFFFFFFF#32 :: [] ∧ idleState.busy = false ∧
    (idleState.script [.regWrite 1 4#32]).host = .regWrite 1 4#32 :: [] ∧ (1 ≠ 0 ∧ 1 ≠ 2) ∧
    (busyState.script [.regWrite 3 0#32]).host = .regWrite 3 0#32 :: [] ∧ busyState.busy = true ∧ (3 ≠ 0 ∧ 3 ≠ 2) :=
  ⟨rfl, rfl, rfl, rfl, rfl, by decide, rfl, rfl, by decide⟩

/-- MessageWriteStoresOneByte: the first and the last byte of MSG, and the first address above it, idle and in a window. -/
theorem witness_messageWrite : (idleState.script [.msgWrite 0 1#8]).host = .msgWrite 0 1#8 :: [] ∧ idleState.busy = false ∧
    0 < Config.msgBytes ∧
    (idleState.script [.msgWrite (Config.msgBytes - 1) 1#8]).host = .msgWrite (Config.msgBytes - 1) 1#8 :: [] ∧
    Config.msgBytes - 1 < Config.msgBytes ∧
    (idleState.script [.msgWrite Config.msgBytes 1#8]).host = .msgWrite Config.msgBytes 1#8 :: [] ∧
    (busyState.script [.msgWrite Config.msgBytes 1#8]).host = .msgWrite Config.msgBytes 1#8 :: [] ∧ busyState.busy = true := by
  have := Config.msgBytes_ge
  exact ⟨rfl, rfl, by omega, rfl, by omega, rfl, rfl, rfl⟩

/-- HostWritesInWindowAreDropped: to LEN, and to the last byte of MSG. -/
theorem witness_windowWrites : busyState.busy = true ∧ (busyState.script [.regWrite 2 0#32]).host = .regWrite 2 0#32 :: [] ∧
    (busyState.script [.msgWrite (Config.msgBytes - 1) 1#8]).host = .msgWrite (Config.msgBytes - 1) 1#8 :: [] ∧
    Config.msgBytes - 1 < Config.msgBytes := by
  have := Config.msgBytes_ge
  exact ⟨rfl, rfl, rfl, by omega⟩

theorem witness_wait : (idleState.script [.wait]).host = .wait :: [] ∧ idleState.busy = false ∧
    (busyState.script [.wait]).host = .wait :: [] ∧ busyState.busy = true := ⟨rfl, rfl, rfl, rfl⟩

theorem witness_windowKeeps : busyState.busy = true ∧ busyState.host.head? ≠ some .reset ∧ ∃ t, step busyState = .next t :=
  ⟨rfl, by decide, _, rfl⟩

theorem witness_windowEnds : busyState.engine = .executing .hash 2 ∧ ∀ op ∈ busyState.host, op ≠ .reset := by decide

/-- ResetEventAbandonsEverything, in a window. -/
theorem witness_reset : (busyState.script [.reset]).host = .reset :: [] ∧ busyState.busy = true := ⟨rfl, rfl⟩

/-! ## Witnesses: the host procedures and the datapath -/

theorem witness_pad : 0 < [0x61#8].length ∧ [0x61#8].length + 1 ≤ 55 ∧ 55 + 9 ≤ paddedLength [0x61#8].length := by decide

theorem pad_empty_length : (pad []).length = 64 := by decide

theorem witness_hashPadded : (idleState.lenOf (pad []).length).Ready ∧ (pad []).length ≤ Config.msgBytes ∧
    (idleState.lenOf (pad []).length).len = BitVec.ofNat 32 (pad []).length := by
  rw [pad_empty_length]; exact ⟨⟨rfl, rfl⟩, Config.msgBytes_ge, rfl⟩

theorem witness_text : ∃ m, utf8 Config.badCodePoint [0x1F600] = .ok m := ⟨_, rfl⟩

theorem witness_load : idleState.busy = false ∧ abcBytes.length ≤ Config.msgBytes ∧
    (idleState.script (load abcBytes)).host = load abcBytes ++ [] := by
  refine ⟨rfl, ?_, (List.append_nil _).symm⟩
  rw [show abcBytes.length = 64 by decide]; exact Config.msgBytes_ge

theorem witness_digestProcedure : (State.reset.script (digestScript (pad []))).Ready ∧ (pad []).length ≤ Config.msgBytes ∧
    (State.reset.script (digestScript (pad []))).host = digestScript (pad []) := by
  rw [pad_empty_length]; exact ⟨⟨rfl, rfl⟩, Config.msgBytes_ge, rfl⟩

/-- ScheduleIsAFunctionOfSixteenWords: equal first words, and zero ones; HexEncodeIsLowercaseAndInjective: equal characters. -/
theorem witness_schedule : (∀ (k : Nat) (hk : k < 16), (Vector.replicate 64 0#32)[k] = 0#32) ∧ hexEncode iv = hexEncode iv :=
  ⟨fun k hk => by simp, rfl⟩

end Sys2Proof.Machine
end

section
/-! The constants of CORE (R40). What registers 128..191 and 256..511 read is a value of the model's tables in which no field of
the state stands: so it is the same before and after every run, whatever the run holds. -/

namespace Sys2Proof.Machine

/-- R23: registers 128..191, read in order, are the table K. -/
theorem State.map_readReg_k (s : State) : ((List.range 64).map fun k => s.readReg (128 + k)) = kConst.toList :=
  List.ext_getElem (by simp) fun k _ hk => by
    have hk' : k < 64 := by simpa using hk
    rw [List.getElem_map, List.getElem_range, State.readReg_k k hk', Vector.getElem_toList]

/-- R25: an entry of LUT as a number: the code of the high digit in bits 15:8, that of the low digit in bits 7:0. -/
theorem lutWord_toNat (b : Nat) (hb : b < 256) :
    (lutWord b).toNat = (hexChar (b / 16)).toNat * 256 + (hexChar (b % 16)).toNat := by
  have h : lutWord b = be32 0#8 0#8 (hexChar (b / 16)) (hexChar (b % 16)) := lutWord_eq b hb
  rw [h, be32_toNat]
  simp

/-- R40: a register of K or of LUT reads the same in any two states. -/
theorem State.readReg_constant (s t : State) {r : Nat} (hr : 128 ≤ r ∧ r < 192 ∨ 256 ≤ r ∧ r < 512) :
    t.readReg r = s.readReg r := by
  rcases hr with ⟨lo, hi⟩ | ⟨lo, hi⟩
  · obtain ⟨k, rfl⟩ := Nat.exists_eq_add_of_le lo
    rw [State.readReg_k k (by omega), State.readReg_k k (by omega)]
  · obtain ⟨b, rfl⟩ := Nat.exists_eq_add_of_le lo
    rw [State.readReg_lut b (by omega), State.readReg_lut b (by omega)]

/-- Settles O40: the register map answers these numbers from K and LUT in every state, so in the state a run ends in too. -/
theorem constantsNeverChange : Obligations.ConstantsNeverChange := by
  intro _ s t _
  refine ⟨?k, ?lut, ?same⟩
  case k => exact t.map_readReg_k.trans rfl
  case lut =>
    intro b
    rw [State.readReg_lut b b.isLt, lutWord_toNat b b.isLt, hexChar_toNat _ (by omega), hexChar_toNat _ (by omega)]
  case same =>
    intro r lo hr
    exact State.readReg_constant s t (by omega)

end Sys2Proof.Machine
end

section
/-! Encoding (R90 to R97). A legal word is the encoding of the command it decodes to, so the rows it matches are those the family Row
gives for that command; a word that matches a row is legal, so an illegal word matches none. -/

namespace Sys2Proof

/-- R95: a word with LDBLK's opcode decodes whatever its low field. -/
theorem decode_of_opField_ldblk {c : Word} (h : opField c = 0x02#8) : decode c = .ok (.ldblk (lowField c).toNat) := by
  simp [decode, h]

/-- R95: a word with BLOCK's opcode decodes whatever its low field. -/
theorem decode_of_opField_block {c : Word} (h : opField c = 0x06#8) : decode c = .ok (.block (lowField c).toNat) := by
  simp [decode, h]

/-- R90: a word with a command's two fields is the command's encoding. -/
theorem encode_of_fields {c : Word} {i : Instr} (op : opField c = opcode i) (low : lowField c = operandField i) : encode i = c := by
  rw [encode, ← op, ← low, opField_lowField]

/-- R90, R91, R92: a word that decodes is the encoding of its command. -/
theorem encode_of_decode {c : Word} {i : Instr} (h : decode c = .ok i) : encode i = c := by
  have formatZ : ∀ {j : Instr}, decodeZ j c = .ok i → opField c = opcode j → operandField j = 0#24 → encode i = c := by
    intro j hz op zero
    obtain ⟨rfl, low⟩ := decodeZ_ok hz
    exact encode_of_fields op (low.trans zero.symm)
  have formatB : ∀ {j : Instr}, Except.ok (ε := Illegal) j = .ok i → opField c = opcode j →
      operandField j = BitVec.ofNat 24 (lowField c).toNat → encode i = c := by
    intro j hb op low
    obtain rfl := Except.ok.inj hb
    exact encode_of_fields op (by simp [low])
  unfold decode at h
  split_ifs at h with op op op op op op op op op op
  exacts [formatZ h op rfl, formatB h op rfl, formatZ h op rfl, formatZ h op rfl, formatZ h op rfl, formatB h op rfl,
    formatZ h op rfl, formatZ h op rfl, formatZ h op rfl, formatZ h op rfl]

/-- R92: a word matches a format Z row exactly when it is the row's word. -/
theorem OpRow.matches_z {name : String} {f : Format} {m c : Word} : (OpRow.mk name f m 0xFFFFFFFF#32).matches c = true ↔ c = m := by
  rw [OpRow.matches, mask_all, beq_iff_eq]

/-- R92: a word that matches a format B row has the row's opcode. -/
theorem OpRow.opField_of_matches_b {name : String} {f : Format} {m c : Word} (h : (OpRow.mk name f m 0xFF000000#32).matches c = true) :
    opField c = opField m := by
  rw [OpRow.matches, mask_op, beq_iff_eq] at h
  simpa using congrArg opField h

/-- R93: a word that matches a row is legal. -/
theorem decode_of_matches {c : Word} : ∀ r ∈ opcodeTable, r.matches c = true → ∃ i, decode c = .ok i := by
  have z : ∀ {name : String} {f : Format} {m : Word}, (∃ i, decode m = .ok i) →
      (OpRow.mk name f m 0xFFFFFFFF#32).matches c = true → ∃ i, decode c = .ok i :=
    fun legal h => OpRow.matches_z.1 h ▸ legal
  simp only [opcodeTable, List.forall_mem_cons]
  exact ⟨z ⟨.init, rfl⟩, fun h => ⟨_, decode_of_opField_ldblk (OpRow.opField_of_matches_b h)⟩, z ⟨.expand, rfl⟩, z ⟨.rounds, rfl⟩,
    z ⟨.addh, rfl⟩, fun h => ⟨_, decode_of_opField_block (OpRow.opField_of_matches_b h)⟩, z ⟨.digest, rfl⟩, z ⟨.hex, rfl⟩,
    z ⟨.hash, rfl⟩, z ⟨.clrerr, rfl⟩, by simp⟩

/-- R92, R93: the word of every command is in the command's own row and in no other. -/
theorem Laws.Row.statement : ∀ i : Instr, Laws.Row.Statement i
  | .init => Laws.Row.init
  | .ldblk blk => Laws.Row.ldblk blk
  | .expand => Laws.Row.expand
  | .rounds => Laws.Row.rounds
  | .addh => Laws.Row.addh
  | .block blk => Laws.Row.block blk
  | .digest => Laws.Row.digest
  | .hex => Laws.Row.hex
  | .hash => Laws.Row.hash
  | .clrerr => Laws.Row.clrerr

end Sys2Proof

namespace Sys2Proof.Machine

/-- Settles O3: a legal word is its command's encoding, which is in one row; a word in a row would be legal. -/
theorem everyWordMatchesOneRowOrIsIllegal : Obligations.EveryWordMatchesOneRowOrIsIllegal := by
  refine ⟨fun c => ?word, by decide⟩
  case word =>
    cases hd : decode c with
    | ok i =>
      obtain ⟨r, one, own⟩ := Laws.Row.statement i
      rw [encode_of_decode hd] at one
      exact .inl ⟨i, r, rfl, one, own⟩
    | error e =>
      refine .inr ⟨⟨e, rfl⟩, List.filter_eq_nil_iff.2 fun r hr hm => ?_⟩
      obtain ⟨i, legal⟩ := decode_of_matches r hr hm
      cases hd.symm.trans legal

/-- Settles O5: the opcode alone makes a format B word legal, and the check of R141 turns the command away on a block outside. -/
theorem anyBlockIndexIsLegal : Obligations.AnyBlockIndexIsLegal := by
  intro b s ready
  refine ⟨?ldblk, ?block, fun outside => ?range⟩
  case ldblk => simpa using decode_of_opField_ldblk (opField_append 0x02#8 b)
  case block => simpa using decode_of_opField_block (opField_append 0x06#8 b)
  case range =>
    have check : checkBlock b.toNat s = some .blockRange := checkBlock_outside (by unfold State.BlockInside at outside; omega)
    exact ⟨⟨_, exec_turnedAway ready (.ldblk b.toNat) check, rfl, rfl⟩, ⟨_, exec_turnedAway ready (.block b.toNat) check, rfl, rfl⟩⟩

/-- Settles O6: a closed statement about sixteen words, which the encoder and the decoder compute. -/
theorem workedEncodingsDecode : Obligations.WorkedEncodingsDecode := by
  unfold Obligations.WorkedEncodingsDecode
  decide

end Sys2Proof.Machine
end

section
/-! Arithmetic of the datapath (R110, R114 to R119). Ch and Maj are said once bit by bit: a bit of Ch is a choice, a bit of Maj depends
only on how many of its three bits are set. The second form of Ch and the symmetry of Maj follow from that. -/

namespace Sys2Proof.Machine

/-! ## Addition -/

/-- R110: the carry out of bit 31 is discarded. -/
theorem add32_toNat (x y : Word) : (add32 x y).toNat = (x.toNat + y.toNat) % 2 ^ 32 := BitVec.toNat_add x y

/-- Settles O55: `add32` is the addition of bit vectors, whose laws are the library's. -/
theorem additionIsModulo : Obligations.AdditionIsModulo :=
  ⟨add32_toNat, BitVec.add_comm, BitVec.add_assoc, BitVec.add_zero, by decide⟩

/-! ## Ch and Maj -/

/-- R118: a bit of Ch is the bit of `f` where that of `e` is 1, and the bit of `g` where it is 0. -/
theorem getLsbD_ch (e f g : Word) (i : Nat) : (ch e f g).getLsbD i = if e.getLsbD i then f.getLsbD i else g.getLsbD i := by
  rw [ch, BitVec.getLsbD_xor, BitVec.getLsbD_and, BitVec.getLsbD_xor]
  cases e.getLsbD i <;> simp [Bool.xor_left_comm]

/-- R118: with `f` masked by `e` and `g` by its complement, only one of the two has a bit at each place. -/
theorem ch_eq_and_xor_not_and (e f g : Word) : ch e f g = (e &&& f) ^^^ (~~~e &&& g) := by
  refine BitVec.eq_of_getLsbD_eq fun i hi => ?_
  rw [getLsbD_ch, BitVec.getLsbD_xor, BitVec.getLsbD_and, BitVec.getLsbD_and, BitVec.getLsbD_not]
  cases e.getLsbD i <;> simp [hi]

/-- R119: a bit of Maj is 1 when at least two of the three bits are. -/
theorem getLsbD_maj (a b c : Word) (i : Nat) :
    (maj a b c).getLsbD i = decide (2 ≤ (a.getLsbD i).toNat + (b.getLsbD i).toNat + (c.getLsbD i).toNat) := by
  have bits : ∀ p q r : Bool, ((p && q) ^^ (r && (p ^^ q))) = decide (2 ≤ p.toNat + q.toNat + r.toNat) := by decide
  simpa [maj] using bits (a.getLsbD i) (b.getLsbD i) (c.getLsbD i)

/-- R119: the form by products, because `&&&` distributes over `^^^` at each place (R111). -/
theorem maj_eq_xor_ands (a b c : Word) : maj a b c = (a &&& b) ^^^ (a &&& c) ^^^ (b &&& c) := by
  have distrib : (a ^^^ b) &&& c = (a &&& c) ^^^ (b &&& c) :=
    BitVec.eq_of_getLsbD_eq fun i _ => by simp only [BitVec.getLsbD_and, BitVec.getLsbD_xor, Bool.and_xor_distrib_right]
  rw [maj, BitVec.and_comm c, distrib, BitVec.xor_assoc]

/-- R119: Maj is symmetric in its first two arguments. -/
theorem maj_comm (a b c : Word) : maj a b c = maj b a c :=
  BitVec.eq_of_getLsbD_eq fun i _ => by rw [getLsbD_maj, getLsbD_maj, Nat.add_comm (a.getLsbD i).toNat]

/-- R119: Maj is symmetric in its last two arguments. -/
theorem maj_right_comm (a b c : Word) : maj a b c = maj a c b :=
  BitVec.eq_of_getLsbD_eq fun i _ => by rw [getLsbD_maj, getLsbD_maj, Nat.add_right_comm]

/-- Settles O57: the general clauses are the lemmas above; the worked values are closed and computed. -/
theorem chooseAndMajority : Obligations.ChooseAndMajority := by
  refine ⟨fun e f g => ?ch, fun a b c => ?maj, by decide⟩
  case ch => exact ⟨rfl, ch_eq_and_xor_not_and e f g, fun i _ => getLsbD_ch e f g i⟩
  case maj => exact ⟨rfl, maj_eq_xor_ands a b c, maj_comm a b c, maj_right_comm a b c, fun i _ => getLsbD_maj a b c i⟩

/-! ## The sigma functions -/

/-- Settles O60: the four functions are defined as the rules give them; the worked values are closed and computed. -/
theorem sigmaFunctions : Obligations.SigmaFunctions :=
  ⟨fun _ => rfl, fun _ => rfl, fun _ => rfl, fun _ => rfl, by decide⟩

end Sys2Proof.Machine
end

section
/-! The compression engine (R171, R173, R174). DIGEST starts from the IV and reads written bytes only, so the H it leaves is the pure
hash of those bytes: no other part of the state is left to depend on. -/

namespace Sys2Proof.Machine

/-- The memory of `s` and of `t` below `n` being the same and written, their bytes there read the same, whatever the draws (R61, R254). -/
theorem State.Written.msgByte_eq {s t : State} {n : Nat} (written : s.Written 0 n)
    (same : ∀ a, a < n → Mem.find t.msg a = Mem.find s.msg a) (a : Nat) (ha : a < n) : t.msgByte a = s.msgByte a :=
  State.msgByte_congr (same a ha) (written a (Nat.zero_le a) (by omega))

/-- That `n` bytes are written is a property of those bytes alone. -/
theorem State.Written.congr {s t : State} {n : Nat} (written : s.Written 0 n)
    (same : ∀ a, a < n → Mem.find t.msg a = Mem.find s.msg a) : t.Written 0 n := fun a lo hi => by
  rw [same a (by omega)]
  exact written a lo hi

/-- R171, R173: DIGEST of a written message is accepted and leaves the pure hash of its bytes in H, all specified. -/
theorem exec_digest_written {s : State} (ready : s.Ready) (blocks : s.len.toNat % 64 = 0) (fits : s.len.toNat ≤ Config.msgBytes)
    (written : s.Written 0 s.len.toNat) :
    ∃ s', exec .digest s = .next s' ∧ s'.h = hashBlocks s.msgByte (s.len.toNat / 64) ∧ s'.hKnown = allKnown := by
  obtain ⟨⟨h, hKnown⟩, -⟩ := State.accept_data s .digest State.digestEffect
  obtain ⟨hash, known⟩ := digestUpTo_known s.dropDone (s.len.toNat / 64) fun a lo hi => written a lo (by omega)
  refine ⟨_, exec_accepted ready .digest (checkLength_ok blocks fits), h.trans hash, hKnown.trans ?marks⟩
  case marks => exact Vector.ext fun j hj => (known j hj).trans (by simp [allKnown])

/-- Settles O36: both machines end with the pure hash of their message, and the hash depends on the message's bytes alone. -/
theorem digestDependsOnTheMessageAlone : Obligations.DigestDependsOnTheMessageAlone := by
  intro s t readyS readyT sameLen blocks fits written same
  have written' : t.Written 0 t.len.toNat := sameLen ▸ written.congr same
  obtain ⟨s', runS, hS, knownS⟩ := exec_digest_written readyS blocks fits written
  obtain ⟨t', runT, hT, knownT⟩ := exec_digest_written readyT (sameLen ▸ blocks) (sameLen ▸ fits) written'
  refine ⟨s', t', runS, runT, ?h, knownS.trans knownT.symm⟩
  case h =>
    rw [hS, hT, ← sameLen]
    exact hashBlocks_congr _ fun a ha => (written.msgByte_eq same a (by omega)).symm

end Sys2Proof.Machine
end

section
/-! The host's padding (R203). `pad m` is four pieces one after the other: the message, 0x80, the zeros, the length field. That the zeros
and the field end at the padded length needs only that it leaves room for 9 bytes. -/

namespace Sys2Proof.Machine

/-- R204: the padded length leaves room for 0x80 and the length field. -/
theorem add_nine_le_paddedLength (n : Nat) : n + 9 ≤ paddedLength n := by
  unfold paddedLength
  omega

/-- R203: the length field is 8 bytes. -/
@[simp] theorem length_lengthField (n : Nat) : (lengthField n).length = 8 := by simp [lengthField]

/-- R203, R205: byte `i` of the length field is bits `63 - 8*i` down to `56 - 8*i` of the bit length. -/
theorem getElem?_lengthField (n : Nat) {i : Nat} (hi : i ≤ 7) :
    (lengthField n)[i]? = some (BitVec.ofNat 8 (8 * n % 2 ^ 64 / 2 ^ (8 * (7 - i)))) := by
  have place : 56 - 8 * i = 8 * (7 - i) := by omega
  rw [lengthField, List.getElem?_map, List.getElem?_range (by omega), Option.map_some, place, BitVec.extractLsb',
    BitVec.toNat_ofNat, Nat.shiftRight_eq_div_pow]

/-- R203: the padded message has the padded length. -/
theorem length_pad (m : List Byte) : (pad m).length = paddedLength m.length := by
  have room := add_nine_le_paddedLength m.length
  simp only [pad, List.length_append, List.length_singleton, List.length_replicate, length_lengthField]
  omega

/-- R203: the padded message begins with the message. -/
theorem getElem?_pad_message (m : List Byte) {i : Nat} (hi : i < m.length) : (pad m)[i]? = m[i]? := by
  simp only [pad, List.append_assoc]
  exact List.getElem?_append_left hi

/-- R203: 0x80 follows the message. -/
theorem getElem?_pad_marker (m : List Byte) : (pad m)[m.length]? = some 0x80#8 := by
  simp [pad]

/-- R203: the bytes between 0x80 and the length field are zero. -/
theorem getElem?_pad_zero (m : List Byte) {i : Nat} (lo : m.length + 1 ≤ i) (hi : i + 9 ≤ paddedLength m.length) :
    (pad m)[i]? = some 0#8 := by
  rw [pad, List.getElem?_append_left (by simp; omega), List.getElem?_append_right (by simpa using lo), List.getElem?_replicate,
    if_pos (by simp; omega)]

/-- R203: the last 8 bytes of the padded message are the length field. -/
theorem getElem?_pad_lengthField (m : List Byte) (i : Nat) : (pad m)[paddedLength m.length - 8 + i]? = (lengthField m.length)[i]? := by
  have room := add_nine_le_paddedLength m.length
  have front : (m ++ [0x80#8] ++ List.replicate (paddedLength m.length - m.length - 9) 0#8).length = paddedLength m.length - 8 := by
    simp only [List.length_append, List.length_singleton, List.length_replicate]
    omega
  rw [pad, ← front, List.getElem?_append_right (Nat.le_add_right _ i), Nat.add_sub_cancel_left]

/-- Settles O49, piece by piece. -/
theorem padHasTheStatedBytes : Obligations.PadHasTheStatedBytes := fun m =>
  ⟨length_pad m, fun _ hi => getElem?_pad_message m hi, getElem?_pad_marker m, fun _ lo hi => getElem?_pad_zero m lo hi,
    fun i hi => (getElem?_pad_lengthField m i).trans (getElem?_lengthField m.length hi)⟩

end Sys2Proof.Machine
end

section
/-! Which command records which fault (R221, R224, R227, R228). On a ready machine a fault recorded after a command is the one its
check raised; so when a code is recorded is only a question of when a check raises its cause. -/

namespace Sys2Proof.Machine

/-! ## What a recorded fault comes from -/

/-- R227: no pseudocode records a fault. -/
theorem effectOf_err {s : State} (i : Instr) (h : s.err = false) : (effectOf i s).err = false := by
  cases i <;> simp [effectOf, h]

/-- R130 case 5: an accepted command leaves no fault where none was. -/
theorem State.accept_err {s : State} (i : Instr) (h : s.err = false) : (s.accept i (effectOf i)).err = false := by
  obtain ⟨-, -, -, -, -, -, ⟨err, -⟩, -⟩ := s.accept_data i (effectOf i)
  exact err.trans (effectOf_err i h)

/-- R228: a fault recorded by a command of a ready machine is the one its check raised, and changes STATUS alone. -/
theorem exec_recorded {s t : State} {i : Instr} (ready : s.Ready) (run : exec i s = .next t) (err : t.err = true) :
    ∃ f, checkOf i s = some f ∧ t = s.turnedAway f.code := by
  cases check : checkOf i s with
  | some f => exact ⟨f, rfl, Host.Outcome.next.inj (run.symm.trans (exec_turnedAway ready i check))⟩
  | none =>
    obtain rfl := Host.Outcome.next.inj (run.symm.trans (exec_accepted ready i check))
    simp [State.accept_err i ready.2] at err

/-- R220: the four faults have four codes. -/
theorem Cause.code_inj {f g : Cause} (h : f.code = g.code) : f = g := by
  revert h; cases f <;> cases g <;> decide

/-- R227: a ready machine records the code of `f` only when the command's check raises `f`. -/
theorem checkOf_of_errCode {s t : State} {i : Instr} {f : Cause} (ready : s.Ready) (run : exec i s = .next t) (err : t.err = true)
    (code : t.errCode = f.code) : checkOf i s = some f := by
  obtain ⟨g, check, rfl⟩ := exec_recorded ready run err
  rw [check, Cause.code_inj (f := g) code]

/-! ## When the checks raise their causes -/

/-- R171, R221: the length check raises BufferInvariantViolation when LEN is no multiple of 64. -/
theorem checkLength_eq_bufferInvariantViolation {s : State} :
    checkLength s = some .bufferInvariantViolation ↔ s.len.toNat % 64 ≠ 0 := by
  obtain ⟨h, check⟩ | ⟨h, -, check⟩ | ⟨h, -, check⟩ := checkLength_cases s <;> simp [check, h]

/-- R171, R224, R229: the length check raises BlockRange when LEN is a multiple of 64 above MSG_BYTES. -/
theorem checkLength_eq_blockRange {s : State} :
    checkLength s = some .blockRange ↔ s.len.toNat % 64 = 0 ∧ s.len.toNat > Config.msgBytes := by
  obtain ⟨h, check⟩ | ⟨h, above, check⟩ | ⟨h, fits, check⟩ := checkLength_cases s
  · simp [check, h]
  · simp [check, h, above]
  · simp [check, fits]

/-- R141, R224: the block check raises BlockRange when the block is not wholly inside. -/
theorem checkBlock_eq_blockRange {s : State} {blk : Nat} :
    checkBlock blk s = some .blockRange ↔ 64 * (blk + 1) > min s.len.toNat Config.msgBytes := by
  rw [checkBlock_eq, Option.ite_none_right_eq_some]; simp

/-- R141: the block check raises BlockRange alone. -/
theorem checkBlock_ne_bufferInvariantViolation {s : State} {blk : Nat} : checkBlock blk s ≠ some .bufferInvariantViolation := by
  rw [checkBlock_eq]; split <;> simp

/-- R221: only DIGEST and HASH check the length. -/
theorem checkOf_bufferInvariantViolation {s : State} {i : Instr} (h : checkOf i s = some .bufferInvariantViolation) :
    (i = .digest ∨ i = .hash) ∧ s.len.toNat % 64 ≠ 0 := by
  cases i with
  | digest => exact ⟨.inl rfl, checkLength_eq_bufferInvariantViolation.1 h⟩
  | hash => exact ⟨.inr rfl, checkLength_eq_bufferInvariantViolation.1 h⟩
  | ldblk | block => exact absurd h checkBlock_ne_bufferInvariantViolation
  | init | expand | rounds | addh | hex | clrerr => cases h

/-- R224: only LDBLK and BLOCK check a block, and only DIGEST and HASH the length. -/
theorem checkOf_blockRange {s : State} {i : Instr} (h : checkOf i s = some .blockRange) :
    (∃ blk, (i = .ldblk blk ∨ i = .block blk) ∧ 64 * (blk + 1) > min s.len.toNat Config.msgBytes) ∨
    ((i = .digest ∨ i = .hash) ∧ s.len.toNat % 64 = 0 ∧ s.len.toNat > Config.msgBytes) := by
  cases i with
  | ldblk blk => exact .inl ⟨blk, .inl rfl, checkBlock_eq_blockRange.1 h⟩
  | block blk => exact .inl ⟨blk, .inr rfl, checkBlock_eq_blockRange.1 h⟩
  | digest => exact .inr ⟨.inl rfl, checkLength_eq_blockRange.1 h⟩
  | hash => exact .inr ⟨.inr rfl, checkLength_eq_blockRange.1 h⟩
  | init | expand | rounds | addh | hex | clrerr => cases h

/-- Settles O26: a failing check turns the command away, and a recorded code 4 comes from a failing check. -/
theorem blockRangeIsRaised : Obligations.BlockRangeIsRaised := by
  intro s ready
  refine ⟨fun blk outside => ?block, fun blocks above => ?length, fun i t run err code => ?only⟩
  case block =>
    have check := checkBlock_eq_blockRange.2 outside
    exact ⟨exec_turnedAway ready (.ldblk blk) check, exec_turnedAway ready (.block blk) check⟩
  case length =>
    have check := checkLength_eq_blockRange.2 ⟨blocks, above⟩
    exact ⟨exec_turnedAway ready .digest check, exec_turnedAway ready .hash check⟩
  case only => exact checkOf_blockRange (checkOf_of_errCode ready run err code)

/-- Settles O27: as O26, with the length check's first cause. -/
theorem bufferInvariantViolationIsRaisedFirst : Obligations.BufferInvariantViolationIsRaisedFirst := by
  intro s ready
  refine ⟨fun unaligned => ?raised, fun i t run err code => ?only⟩
  case raised =>
    have check := checkLength_eq_bufferInvariantViolation.2 unaligned
    exact ⟨exec_turnedAway ready .digest check, exec_turnedAway ready .hash check⟩
  case only => exact checkOf_bufferInvariantViolation (checkOf_of_errCode ready run err code)

end Sys2Proof.Machine
end

section
/-! MSG writes (R61, R223, R226): the step of one, and what the write does below MSG_BYTES and above. -/

namespace Sys2Proof.Machine

/-- R61: with BUSY = 0 a MSG write below MSG_BYTES stores its byte. -/
theorem State.writeMsg_idle {s : State} {a : Nat} (b : Byte) (idle : s.busy = false) (inside : a < Config.msgBytes) :
    s.writeMsg a b = { s with msg := Mem.put s.msg a b } := by
  simp [State.writeMsg, idle, inside]

/-- R61: a MSG write at or above MSG_BYTES is dropped. -/
theorem State.writeMsg_outside {s : State} {a : Nat} (b : Byte) (outside : Config.msgBytes ≤ a) : s.writeMsg a b = s :=
  if_neg outside.not_gt

/-- R61: a byte that was written reads back. -/
theorem State.readMsg_of_find {s : State} {a : Nat} {b : Byte} (inside : a < Config.msgBytes) (found : Mem.find s.msg a = some b) :
    s.readMsg a = b :=
  (if_pos inside).trans (State.msgByte_of_find found)

/-- R61, R72: the step of a MSG write, in a window or not. -/
theorem step_msgWrite {s : State} {rest : List HostOp} {a : Nat} {b : Byte} (h : s.host = .msgWrite a b :: rest) :
    step s = .next (s.afterAccess ((s.withHost rest).writeMsg a b)) :=
  step_cons h fun _ => nofun

/-- Settles O43: the step is the write on the rest of the script, which inside is one `Mem.put` and outside nothing. -/
theorem messageWriteStoresOneByte : Obligations.MessageWriteStoresOneByte := by
  intro s rest a b h
  refine ⟨fun idle inside => ?stored, fun outside => ?dropped⟩
  case stored =>
    have put : Mem.find (Mem.put s.msg a b) a = some b := Mem.find_put_same s.msg a b
    refine ⟨{ s.withHost rest with msg := Mem.put s.msg a b }, ?_, State.readMsg_of_find inside put, put,
      fun x other => Mem.find_put_other s.msg b other, rfl⟩
    rw [step_msgWrite h, State.afterAccess_idle idle, State.writeMsg_idle (s := s.withHost rest) b idle inside]; rfl
  case dropped => rw [step_msgWrite h, State.writeMsg_outside b outside, State.afterAccess]

end Sys2Proof.Machine
end

section
/-! Encoding, decoder first (R90 to R94): what the decoder answers by the format of a word's opcode. -/

namespace Sys2Proof

/-- R92: the opcodes of the format Z rows. -/
def formatZOpcodes : List (BitVec 8) := [0x01#8, 0x03#8, 0x04#8, 0x05#8, 0x07#8, 0x08#8, 0x09#8, 0x0F#8]

/-- R90: a word with a format Z opcode decodes by the format Z rule. -/
theorem decode_formatZ {c : Word} (h : opField c ∈ formatZOpcodes) : ∃ i, decode c = decodeZ i c := by
  simp only [formatZOpcodes, List.mem_cons, List.not_mem_nil, or_false] at h
  rcases h with h | h | h | h | h | h | h | h
  exacts [⟨.init, by simp [decode, h]⟩, ⟨.expand, by simp [decode, h]⟩, ⟨.rounds, by simp [decode, h]⟩,
    ⟨.addh, by simp [decode, h]⟩, ⟨.digest, by simp [decode, h]⟩, ⟨.hex, by simp [decode, h]⟩, ⟨.hash, by simp [decode, h]⟩,
    ⟨.clrerr, by simp [decode, h]⟩]

/-- R94 (a): a word with no opcode of the table is illegal. -/
theorem decode_unknown {c : Word} (z : opField c ∉ formatZOpcodes) (ldblk : opField c ≠ 0x02#8) (block : opField c ≠ 0x06#8) :
    decode c = .error (.unknownOpcode (opField c)) := by
  simp only [formatZOpcodes, List.mem_cons, List.not_mem_nil, or_false, not_or] at z
  simp [decode, z, ldblk, block]

/-- R94 (b): the format Z rule rejects exactly a low field that is not zero. -/
theorem decodeZ_error_iff {i : Instr} {c : Word} : (∃ e, decodeZ i c = .error e) ↔ lowField c ≠ 0#24 := by
  unfold decodeZ; split <;> simp [*]

/-- R90, R91: the decoder reads a well-formed command back from its word. -/
theorem decode_encode (i : Instr) (h : i.WellFormed) : decode (encode i) = .ok i := by
  cases i with
  | ldblk blk => rw [decode_of_opField_ldblk (opField_encode _), lowField_encode, operandField, operand_toNat h]
  | block blk => rw [decode_of_opField_block (opField_encode _), lowField_encode, operandField, operand_toNat h]
  | init | expand | rounds | addh | digest | hex | hash | clrerr => decide

/-- R91: a block index read from a low field fits it. -/
theorem blkFits_toNat (l : BitVec 24) : blkFits l.toNat = true := decide_eq_true l.isLt

/-- R90, R91: the decoder gives well-formed commands only. -/
theorem decode_wellFormed {c : Word} {i : Instr} (h : decode c = .ok i) : i.WellFormed := by
  have op : opField c = opcode i := encode_of_decode h ▸ opField_encode i
  cases i with
  | ldblk blk =>
    obtain rfl := Instr.ldblk.inj (Except.ok.inj ((decode_of_opField_ldblk op).symm.trans h))
    exact blkFits_toNat _
  | block blk =>
    obtain rfl := Instr.block.inj (Except.ok.inj ((decode_of_opField_block op).symm.trans h))
    exact blkFits_toNat _
  | init | expand | rounds | addh | digest | hex | hash | clrerr => rfl

end Sys2Proof

namespace Sys2Proof.Machine

/-- Settles O1, format by format: the opcode chooses the row and the low field gives the block index back. -/
theorem decodeInvertsEncode : Obligations.DecodeInvertsEncode := decode_encode

/-- Settles O2: a legal word is put together from the two fields of the command it decodes to. -/
theorem encodeInvertsDecode : Obligations.EncodeInvertsDecode := fun _ _ h => ⟨decode_wellFormed h, encode_of_decode h⟩

/-- Settles O4: the opcode decides whether a word is of format Z, of format B or unknown, and each format is illegal in its own case. -/
theorem illegalWordsAreExactlyCasesAandB : Obligations.IllegalWordsAreExactlyCasesAandB := by
  intro c
  by_cases z : opField c ∈ formatZOpcodes
  · obtain ⟨i, hi⟩ := decode_formatZ z
    have known : opField c ∈ [0x01#8, 0x02#8, 0x03#8, 0x04#8, 0x05#8, 0x06#8, 0x07#8, 0x08#8, 0x09#8, 0x0F#8] :=
      (show formatZOpcodes ⊆ _ by decide) z
    rw [hi, decodeZ_error_iff]
    exact ⟨fun low => .inr ⟨z, low⟩, fun h => h.elim (absurd known) And.right⟩
  · by_cases ldblk : opField c = 0x02#8
    · simp [decode_of_opField_ldblk ldblk, ldblk]
    · by_cases block : opField c = 0x06#8
      · simp [decode_of_opField_block block, block]
      · refine ⟨fun _ => .inl ?_, fun _ => ⟨_, decode_unknown z ldblk block⟩⟩
        simp only [formatZOpcodes, List.mem_cons, List.not_mem_nil, or_false, not_or] at z ⊢
        simp [z, ldblk, block]

end Sys2Proof.Machine
end

section
/-! HexEncode nibble by nibble (R185): every character is the code of one nibble, so the characters are in `[0-9a-f]` and give the
nibbles, hence the words, back. -/

namespace Sys2Proof.Machine

/-- R185: nibble `k` of a word, k in 0..7, nibble 0 the most significant. -/
def nibble (x : Word) (k : Nat) : Nat := x.toNat / 2 ^ (28 - 4 * k) % 16

theorem nibble_lt (x : Word) (k : Nat) : nibble x k < 16 := Nat.mod_lt _ (by decide)

/-- R7: the high half of byte `k` of a word is nibble `2*k`. -/
theorem byteOf_div (x : Word) {k : Nat} (hk : k < 4) : (byteOf x k).toNat / 16 = nibble x (2 * k) := by
  rw [byteOf_toNat, nibble]
  obtain rfl | rfl | rfl | rfl : k = 0 ∨ k = 1 ∨ k = 2 ∨ k = 3 := by omega
  all_goals simp only [Nat.reduceMul, Nat.reduceSub, Nat.reducePow]; omega

/-- R7: the low half of byte `k` of a word is nibble `2*k + 1`. -/
theorem byteOf_mod (x : Word) {k : Nat} (hk : k < 4) : (byteOf x k).toNat % 16 = nibble x (2 * k + 1) := by
  rw [byteOf_toNat, nibble]
  obtain rfl | rfl | rfl | rfl : k = 0 ∨ k = 1 ∨ k = 2 ∨ k = 3 := by omega
  all_goals simp only [Nat.reduceMul, Nat.reduceAdd, Nat.reduceSub, Nat.reducePow]; omega

/-- R185: character `i` of HexEncode is the code of nibble `i mod 8` of word `H[i / 8]`. -/
theorem hexCharAt_eq (h : Vector Word 8) (i : Nat) (hi : i < 64) :
    hexCharAt h i = hexChar (nibble (h[i / 8]'(by omega)) (i % 8)) := by
  have half : i % 8 / 2 < 4 := by omega
  unfold hexCharAt
  rw [getD_eq h (show i / 8 < 8 by omega), lut_eq]
  split
  · rw [byteOf_div _ half, show 2 * (i % 8 / 2) = i % 8 by omega]
  · rw [byteOf_mod _ half, show 2 * (i % 8 / 2) + 1 = i % 8 by omega]

/-- R25: a hexadecimal digit's code is in `[0-9a-f]`. -/
theorem isHexChar_hexChar {n : Nat} (h : n < 16) : isHexChar (hexChar n) = true := by
  unfold isHexChar
  rw [hexChar_toNat n h]
  split <;> simp <;> omega

/-- R25: two hexadecimal digits have two codes. -/
theorem hexChar_inj {m n : Nat} (hm : m < 16) (hn : n < 16) (h : hexChar m = hexChar n) : m = n := by
  have codes := congrArg BitVec.toNat h
  rw [hexChar_toNat m hm, hexChar_toNat n hn] at codes
  split_ifs at codes <;> omega

/-- R185: HexEncode gives characters of `[0-9a-f]` only. -/
theorem isHexChar_hexEncode (h : Vector Word 8) (i : Nat) (hi : i < 64) : isHexChar (hexEncode h)[i] = true := by
  rw [hexEncode_getElem h i hi, hexCharAt_eq h i hi]
  exact isHexChar_hexChar (nibble_lt _ _)

/-- R7: a word is its eight nibbles. -/
theorem eq_of_nibbles {x y : Word} (h : ∀ k, k < 8 → nibble x k = nibble y k) : x = y := by
  have n0 := h 0 (by decide); have n1 := h 1 (by decide); have n2 := h 2 (by decide); have n3 := h 3 (by decide)
  have n4 := h 4 (by decide); have n5 := h 5 (by decide); have n6 := h 6 (by decide); have n7 := h 7 (by decide)
  simp only [nibble, Nat.reduceMul, Nat.reduceSub, Nat.reducePow] at n0 n1 n2 n3 n4 n5 n6 n7
  exact BitVec.eq_of_toNat_eq (by omega)

/-- R185: the characters determine the hash state. -/
theorem hexEncode_inj {g h : Vector Word 8} (e : hexEncode g = hexEncode h) : g = h := by
  refine Vector.ext fun j hj => eq_of_nibbles fun k hk => ?_
  have hi : 8 * j + k < 64 := by omega
  have char : (hexEncode g)[8 * j + k] = (hexEncode h)[8 * j + k] := by rw [e]
  rw [hexEncode_getElem g _ hi, hexEncode_getElem h _ hi, hexCharAt_eq g _ hi, hexCharAt_eq h _ hi] at char
  have same := hexChar_inj (nibble_lt _ _) (nibble_lt _ _) char
  simpa only [show (8 * j + k) / 8 = j by omega, show (8 * j + k) % 8 = k by omega] using same

/-- R65, R121: a word is its four bytes put together, most significant first. -/
theorem be32_byteOf (x : Word) : be32 (byteOf x 0) (byteOf x 1) (byteOf x 2) (byteOf x 3) = x := by
  refine BitVec.eq_of_toNat_eq ?_
  rw [be32_toNat, byteOf_toNat, byteOf_toNat, byteOf_toNat, byteOf_toNat]
  simp only [Nat.reduceMul, Nat.reduceSub, Nat.reducePow]
  omega

/-- Settles O59: the four bytes, the alphabet and the nibbles of a word. -/
theorem hexEncodeIsLowercaseAndInjective : Obligations.HexEncodeIsLowercaseAndInjective :=
  ⟨be32_byteOf, fun h i => isHexChar_hexEncode h i i.isLt, fun _ _ => hexEncode_inj⟩

end Sys2Proof.Machine
end

section
/-! What a step can do, said once for the claims about every step. An access that is neither RESET nor a CMD write leaves one of five
results; a command writes only its own registers. -/

namespace Sys2Proof.Machine

/-! ## Data -/

/-- H, V, W, OUT with their marks, MSG and LEN are the same. -/
structure SameData (s t : State) : Prop where
  h : SameH s t
  v : SameV s t
  w : SameW s t
  out : SameOut s t
  msg : t.msg = s.msg
  len : t.len = s.len

theorem SameData.refl (s : State) : SameData s s := ⟨⟨rfl, rfl⟩, ⟨rfl, rfl⟩, ⟨rfl, rfl⟩, ⟨rfl, rfl⟩, rfl, rfl⟩

theorem SameData.raise (s : State) (f : Cause) : SameData s (s.raise f) := by
  refine ⟨⟨?_, ?_⟩, ⟨?_, ?_⟩, ⟨?_, ?_⟩, ⟨?_, ?_⟩, ?_, ?_⟩ <;> simp

theorem SameData.trans {s t u : State} (a : SameData s t) (b : SameData t u) : SameData s u :=
  ⟨⟨b.h.1.trans a.h.1, b.h.2.trans a.h.2⟩, ⟨b.v.1.trans a.v.1, b.v.2.trans a.v.2⟩, ⟨b.w.1.trans a.w.1, b.w.2.trans a.w.2⟩,
    ⟨b.out.1.trans a.out.1, b.out.2.trans a.out.2⟩, b.msg.trans a.msg, b.len.trans a.len⟩

theorem SameData.tick (s : State) : SameData s s.tick := by
  refine ⟨⟨?_, ?_⟩, ⟨?_, ?_⟩, ⟨?_, ?_⟩, ⟨?_, ?_⟩, ?_, ?_⟩ <;> simp

/-- Acceptance changes the data as the pseudocode does. -/
theorem State.accept_sameData (s : State) (i : Instr) (effect : State → State) : SameData (effect s.dropDone) (s.accept i effect) := by
  obtain ⟨h, v, w, out, msg, len, -, -⟩ := s.accept_data i effect
  exact ⟨h, v, w, out, msg, len⟩

/-! ## Accesses -/

/-- What an access that is neither RESET nor a CMD write can leave, the script aside: it is dropped, answered, dropped with a fault in
a window, or stored in LEN or MSG when idle (R33, R34, R61, R96). -/
inductive Answered (s : State) : State → Prop
  | dropped : Answered s s
  | replied (x : Reply) : Answered s (s.reply x)
  | raised (busy : s.busy = true) : Answered s (s.raise .busyViolation)
  | storedLen (idle : s.busy = false) (v : Word) : Answered s { s with len := v }
  | storedByte (idle : s.busy = false) (a : Nat) (b : Byte) (inside : a < Config.msgBytes) :
      Answered s { s with msg := Mem.put s.msg a b }

/-- In a window nothing of the data and of the protocol changes. -/
theorem Answered.window {s u : State} (h : Answered s u) (busy : s.busy = true) :
    SameData s u ∧ u.engine = s.engine ∧ u.windows = s.windows ∧ u.host = s.host := by
  cases h with
  | dropped => exact ⟨.refl s, rfl, rfl, rfl⟩
  | replied x => exact ⟨⟨⟨rfl, rfl⟩, ⟨rfl, rfl⟩, ⟨rfl, rfl⟩, ⟨rfl, rfl⟩, rfl, rfl⟩, rfl, rfl, rfl⟩
  | raised => exact ⟨.raise s _, by simp, by simp, by simp⟩
  | storedLen idle | storedByte idle => cases busy.symm.trans idle

/-- R227: no access but RESET ends a fault or changes its code. -/
theorem Answered.fault {s u : State} (h : Answered s u) (err : s.err = true) : SameFault s u := by
  cases h with
  | raised => exact ⟨by simp [err], by simp [State.raise_errCode, err]⟩
  | dropped | replied | storedLen | storedByte => exact ⟨rfl, rfl⟩

theorem State.writeReg_answered (s : State) (r : Nat) (v : Word) : Answered s (s.writeReg r v) := by
  unfold State.writeReg
  split
  · cases busy : s.busy
    · exact .storedLen busy v
    · exact .raised busy
  · exact .dropped

theorem State.writeMsg_answered (s : State) (a : Nat) (b : Byte) : Answered s (s.writeMsg a b) := by
  unfold State.writeMsg
  split
  · cases busy : s.busy
    · exact .storedByte busy a b ‹_›
    · exact .raised busy
  · exact .dropped

/-- R96: WAIT is answered as a STATUS read; the script keeps it while BUSY is 1. -/
theorem State.poll_eq (s : State) :
    s.poll = (s.withHost (if s.busy then .wait :: s.host else s.host)).reply (.reg 1 s.statusWord) := by
  unfold State.poll
  cases s.busy <;> rfl

/-- R33, R34, R61, R96: an access short of RESET on the rest of the script. -/
theorem State.access_answered (s : State) {op : HostOp} (h : op ≠ .reset) :
    ∃ script, (∀ o ∈ script, o = op ∨ o ∈ s.host) ∧ Answered (s.withHost script) (s.access op) := by
  have rest : ∀ o ∈ s.host, o = op ∨ o ∈ s.host := fun _ => .inr
  cases op with
  | regRead r => exact ⟨s.host, rest, .replied _⟩
  | regWrite r v => exact ⟨s.host, rest, s.writeReg_answered r v⟩
  | msgRead a => exact ⟨s.host, rest, .replied _⟩
  | msgWrite a b => exact ⟨s.host, rest, s.writeMsg_answered a b⟩
  | wait =>
    refine ⟨if s.busy then .wait :: s.host else s.host, fun o ho => ?script, ?answer⟩
    case script =>
      split at ho
      · exact List.mem_cons.1 ho
      · exact .inr ho
    case answer =>
      show Answered _ s.poll
      rw [State.poll_eq]
      exact .replied _
  | reset => exact absurd rfl h

/-- R94, R130: the cases of an illegal word. -/
theorem State.issueIllegal_cases (s : State) :
    (s.busy = true ∧ s.issueIllegal = s.raise .busyViolation) ∨
    (s.busy = false ∧ s.err = true ∧ s.issueIllegal = s) ∨
    (s.Ready ∧ s.issueIllegal = s.turnedAway 2#4) := by
  cases busy : s.busy
  · cases err : s.err
    · exact .inr (.inr ⟨⟨busy, err⟩, by simp [State.issueIllegal, State.protocol, busy, err, State.dropDone_raise]; rfl⟩)
    · exact .inr (.inl ⟨rfl, rfl, by simp [State.issueIllegal, State.protocol, busy, err]⟩)
  · exact .inl ⟨rfl, by simp [State.issueIllegal, State.protocol, busy]⟩

/-- R74, R131: a step in a window is RESET, or an access whose result leaves the data, and uses up one access of the window. -/
theorem step_window {s t : State} (busy : s.busy = true) (run : step s = .next t) :
    (∃ rest, s.host = .reset :: rest ∧ t = (s.withHost rest).applyReset) ∨
    ∃ script u, (∀ o ∈ script, o ∈ s.host) ∧ Answered (s.withHost script) u ∧ t = u.tick := by
  obtain ⟨empty, rfl⟩ | ⟨op, rest, u, script, rfl, how⟩ := step_next_cases run
  · exact .inr ⟨s.host, s, fun _ => id, .dropped, rfl⟩
  rw [State.afterAccess_busy busy]
  have sub : ∀ o ∈ rest, o ∈ s.host := fun o ho => script ▸ List.mem_cons_of_mem op ho
  obtain ⟨c, i, rfl, -, rfl⟩ | ⟨c, e, rfl, -, rfl⟩ | ⟨-, rfl⟩ := how
  · exact .inr ⟨rest, _, sub, State.issue_busy (s := s.withHost rest) busy ▸ .raised busy, rfl⟩
  · obtain ⟨-, eq⟩ | ⟨idle, -⟩ | ⟨ready, -⟩ := (s.withHost rest).issueIllegal_cases
    · exact .inr ⟨rest, _, sub, eq ▸ .raised busy, rfl⟩
    · cases busy.symm.trans idle
    · cases busy.symm.trans ready.1
  · by_cases reset : op = .reset
    · subst reset
      exact .inl ⟨rest, script, State.tick_idle rfl⟩
    · obtain ⟨script', sub', answered⟩ := (s.withHost rest).access_answered reset
      exact .inr ⟨script', _, fun o ho => (sub' o ho).elim (fun e => e ▸ script ▸ List.mem_cons_self) (sub o), answered, rfl⟩

end Sys2Proof.Machine
end

section
/-! The invariant of the machine holds after reset and every step keeps it: each shared operation keeps it, and a step is made of
these (`step_next_cases`, `State.issue_cases`, `State.access_answered`). -/

namespace Sys2Proof.Machine

/-- OUT changes only by HEX and HASH, which write characters of HexEncode (R26, R185). -/
theorem effectOf_out (i : Instr) (s : State) :
    SameOut s (effectOf i s) ∨ ((i = .hex ∨ i = .hash) ∧ ∃ h, (effectOf i s).out = hexEncode h) := by
  cases i with
  | hex => exact .inr ⟨.inl rfl, _, rfl⟩
  | hash => exact .inr ⟨.inr rfl, _, rfl⟩
  | init | ldblk | expand | rounds | addh | block | digest | clrerr => exact .inl ⟨by simp [effectOf], by simp [effectOf]⟩

/-- R227: a pseudocode leaves ERR and ERRCODE alone, or is CLRERR's and makes both 0. -/
theorem effectOf_fault (i : Instr) (s : State) :
    SameFault s (effectOf i s) ∨ (i = .clrerr ∧ (effectOf i s).err = false ∧ (effectOf i s).errCode = 0#4) := by
  cases i with
  | clrerr => exact .inr ⟨rfl, rfl, rfl⟩
  | init | ldblk | expand | rounds | addh | block | digest | hex | hash => exact .inl ⟨by simp [effectOf], by simp [effectOf]⟩

/-- R220: a fault's code is one of 1 to 4. -/
theorem Cause.code_valid (f : Cause) : f.code.toNat ≤ 4 ∧ (true = true ↔ f.code ≠ 0#4) := by
  cases f <;> decide

section
variable {s : State} (inv : s.Inv)
include inv

/-- The invariant does not look at the script. -/
theorem State.Inv.withHost (rest : List HostOp) : (s.withHost rest).Inv :=
  ⟨inv.mem, inv.code, inv.busyDone, inv.window, inv.alphabet⟩

theorem State.Inv.reply (x : Reply) : (s.reply x).Inv := ⟨inv.mem, inv.code, inv.busyDone, inv.window, inv.alphabet⟩

theorem State.Inv.dropDone : s.dropDone.Inv := ⟨inv.mem, inv.code, fun _ => rfl, inv.window, inv.alphabet⟩

theorem State.Inv.complete : s.complete.Inv := ⟨inv.mem, inv.code, nofun, nofun, inv.alphabet⟩

/-- R227: the recorded code is one of 1 to 4. -/
theorem State.Inv.raise (f : Cause) : (s.raise f).Inv := by
  unfold State.raise
  split
  · exact inv
  · exact ⟨inv.mem, f.code_valid, inv.busyDone, inv.window, inv.alphabet⟩

/-- R131: a window that is not over keeps an access to come. -/
theorem State.Inv.tick : s.tick.Inv := by
  obtain ⟨-, eq⟩ | ⟨i, n, -, -, eq⟩ | ⟨i, n, executing, more, eq⟩ := s.tick_cases <;> rw [eq]
  · exact inv
  · exact inv.complete
  · refine ⟨inv.mem, inv.code, fun _ => inv.busyDone (State.busy_eq_true.2 ⟨i, n, executing⟩), fun j m e => ?_, inv.alphabet⟩
    obtain ⟨rfl, rfl⟩ := Engine.executing.inj e
    exact ⟨(inv.window _ _ executing).1, by omega⟩

theorem State.Inv.openWindow {i : Instr} (legal : i.WellFormed) (n : Nat) (done : s.done = false) : (s.openWindow i n).Inv := by
  cases n with
  | zero => exact ⟨inv.mem, inv.code, nofun, nofun, inv.alphabet⟩
  | succ n =>
    refine ⟨inv.mem, inv.code, fun _ => done, fun j m e => ?_, inv.alphabet⟩
    obtain ⟨rfl, rfl⟩ := Engine.executing.inj e
    exact ⟨legal, by omega⟩

/-- R185: what a pseudocode writes to OUT are hexadecimal digits. -/
theorem State.Inv.effectOf (i : Instr) : (effectOf i s).Inv := by
  obtain ⟨-, done, -, -, msg, -, engine, -⟩ := effectOf_frame i s
  refine ⟨msg ▸ inv.mem, ?code, fun busy => done.trans (inv.busyDone (State.busy_congr engine ▸ busy)), fun j n e =>
    inv.window j n (engine ▸ e), fun k known => ?alphabet⟩
  case code =>
    obtain ⟨err, code⟩ | ⟨-, err, code⟩ := effectOf_fault i s
    · rw [err, code]; exact inv.code
    · rw [err, code]; decide
  case alphabet =>
    obtain ⟨out, marks⟩ | ⟨-, h, out⟩ := effectOf_out i s
    · rw [out]; exact inv.alphabet k (marks ▸ known)
    · rw [out]; exact isHexChar_hexEncode h k k.isLt

theorem State.Inv.issue {i : Instr} (legal : i.WellFormed) : (s.issue i (checkOf i) (Machine.effectOf i)).Inv := by
  obtain ⟨-, eq⟩ | ⟨-, -, -, eq⟩ | ⟨-, -, f, -, eq⟩ | ⟨-, -, -, eq⟩ := State.issue_cases (s := s) (i := i) <;> rw [eq]
  · exact inv.raise _
  · exact inv
  · exact inv.dropDone.raise f
  · exact (inv.dropDone.effectOf i).openWindow legal _ (effectOf_frame i s.dropDone).2.1

theorem State.Inv.issueIllegal : s.issueIllegal.Inv := by
  obtain ⟨-, eq⟩ | ⟨-, -, eq⟩ | ⟨⟨-, err⟩, eq⟩ := s.issueIllegal_cases <;> rw [eq]
  · exact inv.raise _
  · exact inv
  · have turned : s.dropDone.raise .illegalCommand = s.turnedAway 2#4 := State.dropDone_raise _ err
    exact turned ▸ inv.dropDone.raise _

/-- R61: a stored byte keeps the memory canonical. -/
theorem State.Inv.answered {u : State} (h : Answered s u) : u.Inv := by
  cases h with
  | dropped => exact inv
  | replied x => exact inv.reply x
  | raised => exact inv.raise _
  | storedLen => exact ⟨inv.mem, inv.code, inv.busyDone, inv.window, inv.alphabet⟩
  | storedByte _ a b inside => exact ⟨Mem.put_wf b inv.mem inside, inv.code, inv.busyDone, inv.window, inv.alphabet⟩

end

theorem State.Inv.afterAccess {s u : State} (after : u.Inv) : (s.afterAccess u).Inv := by
  unfold State.afterAccess
  split
  · exact after.tick
  · exact after

/-- R250: RESET brings the invariant about from any state. -/
theorem State.applyReset_inv (s : State) : s.applyReset.Inv :=
  have reset_code : (0#4).toNat ≤ 4 ∧ (false = true ↔ 0#4 ≠ 0#4) := by decide
  ⟨State.reset_mem_wf, reset_code, nofun, nofun, fun i known => by simp [State.applyReset, State.reset] at known⟩

/-- Settles O8: the state after reset is what RESET leaves there. -/
theorem resetMeetsInvariant : Obligations.ResetMeetsInvariant := State.reset.applyReset_inv

/-- Settles O9: each of the four kinds of step is made of operations that keep the invariant. -/
theorem stepKeepsInvariant : Obligations.StepKeepsInvariant := by
  intro s t inv run
  obtain ⟨-, rfl⟩ | ⟨op, rest, u, -, rfl, how⟩ := step_next_cases run
  · exact inv.tick
  refine State.Inv.afterAccess ?_
  obtain ⟨c, i, -, legal, rfl⟩ | ⟨c, e, -, -, rfl⟩ | ⟨-, rfl⟩ := how
  · exact (inv.withHost rest).issue (decode_wellFormed legal)
  · exact (inv.withHost rest).issueIllegal
  · by_cases reset : op = .reset
    · exact reset ▸ State.applyReset_inv _
    · obtain ⟨script, -, answered⟩ := (s.withHost rest).access_answered reset
      exact (inv.withHost script).answered answered

end Sys2Proof.Machine
end

section
/-! Steps and the command protocol: the machine never stops, a CMD write runs the decoded command, and what becomes of a recorded
fault. -/

namespace Sys2Proof.Machine

/-! ## Steps -/

/-- R131: the end of an access made in state `s`. -/
theorem State.afterAccess_eq (s t : State) : s.afterAccess t = if s.busy then t.tick else t := rfl

@[simp] theorem State.afterAccess_err (s t : State) : (s.afterAccess t).err = t.err := by
  unfold State.afterAccess; split <;> simp

@[simp] theorem State.afterAccess_errCode (s t : State) : (s.afterAccess t).errCode = t.errCode := by
  unfold State.afterAccess; split <;> simp

/-- R30, R130: the step of a legal CMD write. -/
theorem step_legal {s : State} {c : Word} {rest : List HostOp} {i : Instr} (script : s.host = .regWrite 0 c :: rest)
    (legal : decode c = .ok i) : step s = .next (s.afterAccess ((s.withHost rest).issue i (checkOf i) (effectOf i))) := by
  rw [step_command (s.nextCommand_cons c rest script) legal, State.popHost_cons script, exec_eq]; rfl

/-- R94, R130: the step of an illegal CMD write. -/
theorem step_illegalWord {s : State} {c : Word} {rest : List HostOp} {e : Illegal} (script : s.host = .regWrite 0 c :: rest)
    (illegal : decode c = .error e) : step s = .next (s.afterAccess (s.withHost rest).issueIllegal) := by
  rw [step_illegal (s.nextCommand_cons c rest script) illegal, State.popHost_cons script]; rfl

/-- Settles O10: `exec` answers a next state for every command, and the other accesses are functions of the state. -/
theorem stepAlwaysAnswersNext : Obligations.StepAlwaysAnswersNext := by
  intro s
  cases command : s.nextCommand with
  | none => exact ⟨_, step_access command⟩
  | some c =>
    cases decoded : decode c with
    | ok i => exact ⟨_, (step_command command decoded).trans (by rw [exec_eq]; rfl)⟩
    | error e => exact ⟨_, step_illegal command decoded⟩

/-- Settles O11: the end of the access is the tick of a window. -/
theorem stepRunsDecodedCommand : Obligations.StepRunsDecodedCommand := fun s _ _ i script legal =>
  ⟨_, exec_eq i _, (step_legal script legal).trans (by rw [State.afterAccess_eq])⟩

/-- Settles O12: the placed word is the command's encoding, and taking it from the script gives the state back. -/
theorem fetchWordIsTheNextCommand : Obligations.FetchWordIsTheNextCommand := by
  intro s i legal idle
  have word : BitVec.ofNat 32 ((encode i).toNat % 2 ^ 32) = encode i := by
    rw [Nat.mod_eq_of_lt (encode i).isLt, BitVec.ofNat_toNat, BitVec.setWidth_eq]
  have script : (s.withFetchWord 32 (encode i).toNat).host = .regWrite 0 (encode i) :: s.host := by
    conv_rhs => rw [← word]
    rfl
  have idle' : (s.withFetchWord 32 (encode i).toNat).busy = false := idle
  rw [step_legal script (decode_encode i legal), State.afterAccess_idle idle', exec_eq]; rfl

/-! ## The protocol -/

/-- R227: what raising BusyViolation leaves, written out. -/
theorem State.raise_busyViolation (s : State) :
    s.raise .busyViolation = if s.err then s else { s with err := true, errCode := 3#4 } := rfl

/-- Settles O13, case by case of R130. -/
theorem illegalWordRaisesIllegalCommand : Obligations.IllegalWordRaisesIllegalCommand := by
  intro s c rest e script illegal
  rw [step_illegalWord script illegal]
  obtain ⟨busy, eq⟩ | ⟨idle, err, eq⟩ | ⟨⟨idle, noErr⟩, eq⟩ := (s.withHost rest).issueIllegal_cases <;> rw [eq]
  · rw [State.withHost_busy] at busy
    simp [State.Ready, State.afterAccess_busy busy, busy]
  · rw [State.withHost_busy] at idle
    rw [State.withHost_err] at err
    simp [State.Ready, State.afterAccess_idle idle, idle, err]
  · rw [State.withHost_busy] at idle
    rw [State.withHost_err] at noErr
    simp [State.Ready, State.afterAccess_idle idle, idle, noErr]

/-- Settles O14: case 1 of R130 does not look at the command. -/
theorem commandInWindowIsDropped : Obligations.CommandInWindowIsDropped := fun i s busy => by
  rw [exec_eq, State.issue_busy busy, State.raise_busyViolation]

/-- Settles O15: case 2 of R130. -/
theorem commandWhileFaultedIsDropped : Obligations.CommandWhileFaultedIsDropped := fun i s idle err other => by
  rw [exec_eq, State.issue_faulted idle err other]

/-! ## Faults -/

/-- R221, R224: the two causes a check can raise. -/
theorem checkOf_cause {i : Instr} {s : State} {f : Cause} (h : checkOf i s = some f) :
    f = .bufferInvariantViolation ∨ f = .blockRange := by
  have block : ∀ blk, checkBlock blk s = some f → f = .blockRange := fun blk h => by
    rw [checkBlock_eq, Option.ite_none_right_eq_some] at h
    exact (Option.some.inj h.2).symm
  have length : checkLength s = some f → f = .bufferInvariantViolation ∨ f = .blockRange := fun h => by
    obtain ⟨-, eq⟩ | ⟨-, -, eq⟩ | ⟨-, -, eq⟩ := checkLength_cases s <;> rw [eq] at h <;> cases h
    exacts [.inl rfl, .inr rfl]
  cases i with
  | ldblk blk | block blk => exact .inr (block blk h)
  | digest | hash => exact length h
  | init | expand | rounds | addh | hex | clrerr => cases h

/-- Settles O28: the fault is the one the check raised, and STATUS alone records it. -/
theorem faultsArePrecise : Obligations.FaultsArePrecise := by
  intro i s t ready run err
  obtain ⟨f, check, rfl⟩ := exec_recorded ready run err
  refine ⟨?_, rfl⟩
  obtain rfl | rfl := checkOf_cause check
  exacts [.inl rfl, .inr rfl]

/-- R227, R230: a command on a machine with a fault recorded keeps it, or is CLRERR accepted with BUSY = 0. -/
theorem State.issue_fault {s : State} (i : Instr) (err : s.err = true) :
    SameFault s (s.issue i (checkOf i) (effectOf i)) ∨
    (s.busy = false ∧ i = .clrerr ∧ (s.issue i (checkOf i) (effectOf i)).err = false) := by
  obtain ⟨-, eq⟩ | ⟨-, -, -, eq⟩ | ⟨idle, who, f, check, eq⟩ | ⟨idle, who, -, eq⟩ :=
    State.issue_cases (s := s) (i := i) (check := checkOf i) (effect := effectOf i) <;> rw [eq]
  · exact .inl ⟨by simp [err], by simp [State.raise_errCode, err]⟩
  · exact .inl ⟨rfl, rfl⟩
  · obtain noErr | rfl := who
    · cases err.symm.trans noErr
    · cases check
  · obtain noErr | rfl := who
    · cases err.symm.trans noErr
    · exact .inr ⟨idle, rfl, by rw [State.accept_eq]; simp [effectOf]⟩

/-- R227: an illegal word keeps a recorded fault. -/
theorem State.issueIllegal_fault {s : State} (err : s.err = true) : SameFault s s.issueIllegal := by
  obtain ⟨-, eq⟩ | ⟨-, -, eq⟩ | ⟨ready, -⟩ := s.issueIllegal_cases
  · rw [eq]; exact ⟨by simp [err], by simp [State.raise_errCode, err]⟩
  · rw [eq]; exact ⟨rfl, rfl⟩
  · cases err.symm.trans ready.2

/-- R230, R232: what a step does to a recorded fault: RESET and an accepted CLRERR end it, everything else keeps it and its code. -/
theorem step_fault {s t : State} (err : s.err = true) (run : step s = .next t) :
    SameFault s t ∨ (t.err = false ∧
      (s.host.head? = some .reset ∨ (s.busy = false ∧ s.host.head? = some (.regWrite 0 0x0F000000#32)))) := by
  obtain ⟨-, rfl⟩ | ⟨op, rest, u, script, rfl, how⟩ := step_next_cases run
  · exact .inl ⟨by simp, by simp⟩
  rw [script, List.head?_cons, State.afterAccess_err, SameFault, State.afterAccess_err, State.afterAccess_errCode]
  obtain ⟨c, i, rfl, legal, rfl⟩ | ⟨c, e, rfl, -, rfl⟩ | ⟨-, rfl⟩ := how
  · obtain same | ⟨idle, rfl, cleared⟩ := State.issue_fault (s := s.withHost rest) i err
    · exact .inl same
    · exact .inr ⟨cleared, .inr ⟨idle, by rw [← encode_of_decode legal]; rfl⟩⟩
  · exact .inl (State.issueIllegal_fault (s := s.withHost rest) err)
  · by_cases reset : op = .reset
    · exact .inr ⟨reset ▸ rfl, .inl (reset ▸ rfl)⟩
    · obtain ⟨script', -, answered⟩ := (s.withHost rest).access_answered reset
      exact .inl (answered.fault err)

/-- Settles O29: a step that keeps the fault does not end it. -/
theorem onlyClrerrOrResetClearsTheFault : Obligations.OnlyClrerrOrResetClearsTheFault := by
  intro s t err run cleared
  obtain ⟨same, -⟩ | ⟨-, who⟩ := step_fault err run
  · cases cleared.symm.trans (same.trans err)
  · exact who

/-- Settles O30: a step that keeps ERR at 1 is none of the two that end the fault. -/
theorem firstFaultCodeIsKept : Obligations.FirstFaultCodeIsKept := by
  intro s t err run still
  obtain ⟨-, code⟩ | ⟨cleared, -⟩ := step_fault err run
  · exact code
  · cases still.symm.trans cleared

end Sys2Proof.Machine
end

section
/-! The BUSY window (R74, R131, R263) and the host port (R31 to R34, R61, R96, R250). -/

namespace Sys2Proof.Machine

/-! ## The window -/

/-- Settles O46: an access in a window leaves the data, and so does the tick after it. -/
theorem windowKeepsTheResult : Obligations.WindowKeepsTheResult := by
  intro s t busy noReset run
  obtain ⟨rest, script, -⟩ | ⟨script, u, -, answered, rfl⟩ := step_window busy run
  · exact absurd (by rw [script]; rfl) noReset
  · obtain ⟨data, -, windows, -⟩ := answered.window busy
    obtain ⟨h, v, w, out, msg, len⟩ := data.trans (.tick u)
    exact ⟨h, v, w, out, msg, len, by simp [windows]⟩

/-- R131: the tick of a window with `n` accesses to come. -/
theorem State.tick_executing {s : State} {i : Instr} {n : Nat} (h : s.engine = .executing i n) :
    s.tick = if n ≤ 1 then s.complete else { s with engine := .executing i (n - 1) } := by
  simp [State.tick, h]

/-- R131: a step in a window either abandons it by RESET, or takes one access off it with no new statement in the script. -/
theorem step_executing {s t : State} {i : Instr} {n : Nat} (window : s.engine = .executing i n) (run : step s = .next t) :
    (.reset ∈ s.host ∧ t.engine = .idle) ∨
    ((∀ o ∈ t.host, o ∈ s.host) ∧
      ((n ≤ 1 ∧ t.engine = .idle ∧ t.done = true) ∨ (1 < n ∧ t.engine = .executing i (n - 1)))) := by
  have busy : s.busy = true := State.busy_eq_true.2 ⟨i, n, window⟩
  obtain ⟨rest, script, rfl⟩ | ⟨script, u, sub, answered, rfl⟩ := step_window busy run
  · exact .inl ⟨script ▸ List.mem_cons_self, rfl⟩
  obtain ⟨-, engine, -, host⟩ := answered.window busy
  refine .inr ⟨fun o ho => sub o ?_, ?_⟩
  · rwa [State.tick_host, host] at ho
  · rw [State.tick_executing (engine.trans window)]
    by_cases last : n ≤ 1
    · rw [if_pos last]; exact .inl ⟨last, rfl, rfl⟩
    · rw [if_neg last]; exact .inr ⟨by omega, rfl⟩

/-- Settles O47, by induction on the accesses to come. -/
theorem everyWindowEnds : Obligations.EveryWindowEnds := by
  intro s i n
  induction n using Nat.strong_induction_on generalizing s with
  | _ n ih =>
    intro window
    obtain ⟨t, run⟩ := stepAlwaysAnswersNext s
    have once : core.run 1 s = .next t := (run_succ 0 run).trans (run_zero t)
    obtain ⟨reset, idle⟩ | ⟨sub, ⟨last, idle, done⟩ | ⟨more, rest⟩⟩ := step_executing window run
    · exact ⟨1, t, by omega, once, idle, fun noReset => absurd rfl (noReset _ reset)⟩
    · exact ⟨1, t, by omega, once, idle, fun _ => ⟨by omega, done⟩⟩
    · obtain ⟨k, u, bound, run', idle, exact⟩ := ih (n - 1) (by omega) t rest
      refine ⟨k + 1, u, by omega, (run_succ k run).trans run', idle, fun noReset => ?_⟩
      obtain ⟨rfl, done⟩ := exact fun o ho => noReset o (sub o ho)
      exact ⟨by omega, done⟩

/-- Settles O44: both writes are dropped with BusyViolation and use up one access. -/
theorem hostWritesInWindowAreDropped : Obligations.HostWritesInWindowAreDropped := by
  intro s rest a b v busy write
  have raised : (s.withHost rest).raise .busyViolation =
      { s.withHost rest with err := true, errCode := if s.err then s.errCode else 3#4 } := by
    cases err : s.err <;> simp [State.raise, State.withHost, err, Cause.code]
  rw [← raised, ← State.afterAccess_busy busy]
  obtain script | ⟨script, inside⟩ := write
  · rw [step_cons script nofun]
    simp [State.access, State.writeReg, busy]
  · rw [step_msgWrite script]
    simp [State.writeMsg, busy, inside]

/-- Settles O45: one turn of WAIT is a STATUS read, and in a window the script gets the statement back. -/
theorem waitPollsUntilIdle : Obligations.WaitPollsUntilIdle := by
  intro s rest script
  have poll : step s = .next (s.afterAccess (s.withHost rest).poll) := step_cons script nofun
  refine ⟨fun idle => ?idle, fun busy => ?busy⟩
  case idle =>
    rw [poll, State.afterAccess_idle idle, State.poll_eq, State.withHost_busy, idle]; rfl
  case busy =>
    rw [poll, State.afterAccess_busy busy, State.poll_eq, State.withHost_busy, busy, if_pos rfl, State.withHost_host, ← script]; rfl

/-! ## Reads, register writes and RESET -/

/-- Settles O41: a read is a reply on the rest of the script, and the script is not read. -/
theorem readsHaveNoSideEffect : Obligations.ReadsHaveNoSideEffect := by
  intro s rest
  refine ⟨fun r script => ?reg, fun a script => ?msg⟩
  case reg => rw [step_cons script nofun, State.afterAccess_eq, State.access, State.withHost_readReg]; rfl
  case msg => rw [step_cons script nofun, State.afterAccess_eq, State.access, State.withHost_readMsg]; rfl

/-- Settles O42: `writeReg` looks at register number 2 alone. -/
theorem registerWritesStoreOnlyLen : Obligations.RegisterWritesStoreOnlyLen := by
  intro s rest v
  refine ⟨fun script idle => ?len, fun r notCmd notLen script => ?other⟩
  case len =>
    refine ⟨_, ?_, rfl, rfl⟩
    rw [step_cons script nofun, State.afterAccess_idle idle]
    simp [State.access, State.writeReg, idle]
  case other =>
    rw [step_cons script fun _ e => notCmd (HostOp.regWrite.inj e).1, State.afterAccess_eq]
    simp [State.access, State.writeReg, notLen]

/-- Settles O48: RESET leaves the control state of R38, in which nothing ticks. -/
theorem resetEventAbandonsEverything : Obligations.ResetEventAbandonsEverything := by
  intro s rest script
  have run : step s = .next (s.withHost rest).applyReset := by
    rw [step_cons script nofun, State.afterAccess_eq]
    exact congrArg _ (ite_eq_right_iff.2 fun _ => State.tick_idle rfl)
  refine ⟨_, run, State.statusWord_zero rfl rfl rfl rfl, rfl, rfl, rfl, rfl, fun j => ?_, fun i => ?_, Mem.find_nil⟩
  · simp [State.applyReset, State.reset]
  · simp [State.applyReset, State.reset]

/-- Settles O7: the control state of R38 and the marks. -/
theorem resetLeavesControlStateZero : Obligations.ResetLeavesControlStateZero := by
  refine ⟨State.statusWord_zero rfl rfl rfl rfl, rfl, State.readReg_none 0 (.inl rfl), rfl, rfl, fun j => ?_, fun i => ?_, Mem.find_nil⟩
  · simp [State.reset]
  · simp [State.reset]

/-! ## The register map -/

/-- R31: bit `i` of STATUS. -/
theorem State.statusWord_getLsbD (s : State) (i : Nat) :
    s.statusWord.getLsbD i =
      if i = 0 then s.busy else if i = 1 then s.done else if i = 2 then s.err else if i = 3 then false
      else s.errCode.getLsbD (i - 4) := by
  have bits : s.statusWord.getLsbD i = BitVec.getLsbD (w := 24 + 4 + 1 + 1 + 1 + 1) s.statusWord i := rfl
  rw [bits, State.statusWord]
  simp only [BitVec.getLsbD_append]
  rcases i with _ | _ | _ | _ | i 
  · simp
  · simp
  · simp
  · simp
  · simpa using BitVec.lt_of_getLsbD

/-- Settles O37, bit by bit. -/
theorem statusWordHasItsFields : Obligations.StatusWordHasItsFields := by
  intro s
  refine ⟨s.statusWord_getLsbD 0, s.statusWord_getLsbD 1, s.statusWord_getLsbD 2, s.statusWord_getLsbD 3, ?code, fun i hi => ?high⟩
  case code =>
    refine BitVec.eq_of_getLsbD_eq fun i hi => ?_
    rw [BitVec.getLsbD_extractLsb', State.statusWord_getLsbD, if_neg (by omega), if_neg (by omega), if_neg (by omega),
      if_neg (by omega), Nat.add_sub_cancel_left, decide_eq_true hi, Bool.true_and]
  case high =>
    rw [State.statusWord_getLsbD, if_neg (by omega), if_neg (by omega), if_neg (by omega), if_neg (by omega)]
    exact BitVec.getLsbD_of_ge _ _ (by omega)

/-- R33: with BUSY = 0 a register reads as its view. -/
theorem State.settled_idle {s : State} (idle : s.busy = false) (r : Nat) (x : Word) : s.settled r x = x := by
  simp [State.settled, idle]

/-- R26, R66: a word of OUTW whose four characters are specified. -/
theorem State.outWord_eq {s : State} (j : Nat) (hj : j < 16) (k0 : s.outKnown[4 * j] = true) (k1 : s.outKnown[4 * j + 1] = true)
    (k2 : s.outKnown[4 * j + 2] = true) (k3 : s.outKnown[4 * j + 3] = true) :
    s.outWord j = be32 s.out[4 * j] s.out[4 * j + 1] s.out[4 * j + 2] s.out[4 * j + 3] := by
  rw [State.outWord, getD_eq _ (show 4 * j < 64 by omega), getD_eq _ (show 4 * j + 1 < 64 by omega),
    getD_eq _ (show 4 * j + 2 < 64 by omega), getD_eq _ (show 4 * j + 3 < 64 by omega), State.outView_getElem _ _ k0,
    State.outView_getElem _ _ k1, State.outView_getElem _ _ k2, State.outView_getElem _ _ k3]

/-- Settles O38, range by range of the map. -/
theorem registerMapReads : Obligations.RegisterMapReads := by
  intro s idle
  refine ⟨State.readReg_none 0 (.inl rfl), rfl, rfl, rfl, fun j known => ?h, fun j known => ?v, fun j hj k0 k1 k2 k3 => ?out,
    fun k known => ?w, fun r gap => State.readReg_none r (by omega)⟩
  case h => rw [State.readReg_h j j.isLt, State.settled_idle idle]; exact State.hView_getElem j j.isLt known
  case v => rw [State.readReg_v j j.isLt, State.settled_idle idle]; exact State.vView_getElem j j.isLt known
  case out => rw [State.readReg_out j hj, State.settled_idle idle]; exact State.outWord_eq j hj k0 k1 k2 k3
  case w => rw [State.readReg_w k k.isLt, State.settled_idle idle]; exact State.wView_getElem k k.isLt known

/-- Settles O39, range by range of the map. -/
theorem windowReadsOfControlAndConstants : Obligations.WindowReadsOfControlAndConstants := by
  intro s busy
  refine ⟨rfl, (s.statusWord_getLsbD 0).trans busy, rfl, rfl, fun k => State.readReg_k k k.isLt, fun b => ?lut,
    fun a x inside found => State.readMsg_of_find inside found, fun r free => State.readReg_window busy r free⟩
  case lut => rw [State.readReg_lut b b.isLt, lutWord_eq b b.isLt]

end Sys2Proof.Machine
end

section
/-! The ten commands: result, frame and completion. An accepted command changes the data as its pseudocode does and opens its window
(`exec_effect`); each statement is what the pseudocode leaves place by place. -/

namespace Sys2Proof.Machine

/-- R130 case 5, R131: acceptance changes the data as the pseudocode does, leaves the message and the host's side, and opens the
window. -/
theorem exec_effect {s : State} {i : Instr} (idle : s.busy = false) (who : s.err = false ∨ i = .clrerr) (check : checkOf i s = none) :
    ∃ t, exec i s = .next t ∧ SameData (effectOf i s.dropDone) t ∧ SameFault (effectOf i s.dropDone) t ∧ SameMessage s t ∧
      SameHost s t ∧ Opened i s t := by
  obtain ⟨windows, done, host, replies, msg, len, -, draw⟩ := effectOf_frame i s.dropDone
  obtain ⟨-, -, -, -, msg', len', fault, host', replies'⟩ := s.accept_data i (effectOf i)
  refine ⟨s.accept i (effectOf i), ?_, s.accept_sameData i _, fault, ⟨len'.trans len, fun a => by rw [msg', msg]; rfl⟩,
    ⟨host'.trans host, replies'.trans replies⟩, State.accept_opened windows done draw⟩
  rw [exec_eq, State.issue_checked idle who, State.checked_none check]

/-- What LDBLK loads does not depend on DONE. -/
@[simp] theorem State.dropDone_loadedWords (s : State) (blk : Nat) : s.dropDone.loadedWords blk = s.loadedWords blk := by
  unfold State.loadedWords; rfl

@[simp] theorem State.dropDone_loadedKnown (s : State) (blk : Nat) : s.dropDone.loadedKnown blk = s.loadedKnown blk := by
  unfold State.loadedKnown; rfl

@[simp] theorem State.dropDone_expandedWords (s : State) : s.dropDone.expandedWords = s.expandedWords := by
  unfold State.expandedWords; rw [State.dropDone_wView]; rfl

/-- Every mark of H after INIT. -/
theorem allKnown_getElem (j : Nat) (hj : j < 8) : allKnown[j] = true := by simp [allKnown]

/-- Settles O16: INIT's pseudocode writes H and its marks. -/
theorem initLoadsTheInitialHashValue : Obligations.InitLoadsTheInitialHashValue := by
  intro s ready
  obtain ⟨t, run, data, fault, message, host, opened⟩ := exec_effect (i := .init) ready.1 (.inl ready.2) rfl
  obtain ⟨h, hKnown⟩ := data.h
  exact ⟨t, run, h, fun j => (congrArg (·[j]) hKnown).trans (allKnown_getElem j j.isLt), data.v, data.w, data.out, message, fault, host,
    opened⟩

/-- Settles O17: CLRERR is accepted with or without a fault, and its pseudocode writes ERR and ERRCODE. -/
theorem clrerrClearsTheFault : Obligations.ClrerrClearsTheFault := by
  intro s idle
  obtain ⟨t, run, data, ⟨err, code⟩, message, host, opened⟩ := exec_effect (i := .clrerr) idle (.inr rfl) rfl
  exact ⟨t, run, err, code, data.h, data.v, data.w, data.out, message, host, opened⟩

/-- Settles O18, word by word. -/
theorem ldblkLoadsSixteenBigEndianWords : Obligations.LdblkLoadsSixteenBigEndianWords := by
  intro blk s ready inside
  obtain ⟨t, run, data, fault, message, host, opened⟩ :=
    exec_effect (i := .ldblk blk) ready.1 (.inl ready.2) (checkBlock_inside inside)
  have w : t.w = s.loadedWords blk := data.w.1.trans (s.dropDone_loadedWords blk)
  have wKnown : t.wKnown = s.loadedKnown blk := data.w.2.trans (s.dropDone_loadedKnown blk)
  refine ⟨t, run, fun k low => ⟨?value, ?mark⟩, fun k high => ⟨?value', ?mark'⟩, data.h, data.v, data.out, message, fault, host,
    opened⟩
  case value => rw [w, Fin.getElem_fin, State.loadedWords_low blk k low, State.msgWord, be32_toNat]
  case mark => rw [wKnown, Fin.getElem_fin, State.loadedKnown_low blk k low, State.msgWordKnown_iff]; rfl
  case value' => rw [w]; exact State.loadedWords_high blk k high k.isLt
  case mark' => rw [wKnown]; exact State.loadedKnown_high blk k high k.isLt

/-- Settles O19: the schedule the engine reads is that of W[0..15] as it reads them, and its words from 16 on are the new W[16..63]. -/
theorem expandComputesTheSchedule : Obligations.ExpandComputesTheSchedule := by
  intro s ready
  obtain ⟨t, run, data, fault, message, host, opened⟩ := exec_effect (i := .expand) ready.1 (.inl ready.2) rfl
  have w : t.w = s.expandedWords := data.w.1.trans s.dropDone_expandedWords
  have wKnown : t.wKnown = expandKnown s.wKnown := data.w.2
  have place : ∀ (k : Nat) (hk : k < 64), (expandWords s.wView).getD k 0#32 = (expandWords s.wView)[k] := fun k hk => getD_eq _ hk _
  refine ⟨t, run, fun k low => ⟨?value, ?mark⟩, ⟨fun k => (expandWords s.wView).getD k 0#32, fun k low => ?read, fun k high => ?new,
    fun k lo hi => ?recurrence⟩, fun k lo hi => ?marks, data.h, data.v, data.out, message, fault, host, opened⟩
  case value => rw [w]; exact State.expandedWords_low k low
  case mark => rw [wKnown]; exact expandKnown_low _ k low
  case read => exact (place k k.isLt).trans (expandWords_low _ k low)
  case new => rw [w]; exact (place k k.isLt).trans (State.expandedWords_high k high k.isLt).symm
  case recurrence =>
    beta_reduce
    rw [place k hi, place (k - 16) (by omega), place (k - 15) (by omega), place (k - 7) (by omega), place (k - 2) (by omega)]
    exact expandWords_high _ k lo hi
  case marks => simp only [wKnown]; exact expandKnown_high _ k lo hi

/-- Settles O20: the words before round `i` are those `roundsUpTo` gives, whose next words are one round more. -/
theorem roundsRunsSixtyFourRounds : Obligations.RoundsRunsSixtyFourRounds := by
  intro s ready
  obtain ⟨t, run, data, fault, message, host, opened⟩ := exec_effect (i := .rounds) ready.1 (.inl ready.2) rfl
  refine ⟨t, run, ⟨roundsUpTo kConst s.wView s.hView, rfl, fun i => ?round, ?result⟩, fun h w j => ?marks, data.h, data.w, data.out,
    message, fault, host, opened⟩
  case round =>
    refine ⟨_, _, rfl, rfl, ?_⟩
    show roundStep _ (kConst.getD i 0#32) (s.wView.getD i 0#32) = _
    rw [getD_eq _ i.isLt, getD_eq _ i.isLt]; rfl
  case result =>
    rw [data.v.1]
    show rounds64 s.dropDone.hView s.dropDone.wView = _
    rw [State.dropDone_hView, State.dropDone_wView]; unfold rounds64; rfl
  case marks =>
    rw [data.v.2]
    exact rounds64Known_all _ _ (fun j hj => h ⟨j, hj⟩) (fun k hk => w ⟨k, hk⟩) j j.isLt

/-- Settles O21, word by word. -/
theorem addhAddsWorkingVariables : Obligations.AddhAddsWorkingVariables := by
  intro s ready
  obtain ⟨t, run, data, fault, message, host, opened⟩ := exec_effect (i := .addh) ready.1 (.inl ready.2) rfl
  have h : t.h = addWords s.hView s.vView := by
    rw [← State.dropDone_hView, ← State.dropDone_vView]; exact data.h.1
  have hKnown : t.hKnown = addKnown s.hKnown s.vKnown := data.h.2
  refine ⟨t, run, fun j => ⟨?value, ?mark⟩, data.v, data.w, data.out, message, fault, host, opened⟩
  case value => rw [h, Fin.getElem_fin, addWords_getElem _ _ _ j.isLt, add32_toNat]; rfl
  case mark => rw [hKnown]; exact addKnown_getElem _ _ j j.isLt

/-- Settles O24, nibble by nibble. -/
theorem hexEncodesTheHashState : Obligations.HexEncodesTheHashState := by
  intro s ready
  obtain ⟨t, run, data, fault, message, host, opened⟩ := exec_effect (i := .hex) ready.1 (.inl ready.2) rfl
  have out : t.out = hexEncode s.hView := by
    rw [← State.dropDone_hView]; exact data.out.1
  have outKnown : t.outKnown = hexKnown s.hKnown := data.out.2
  refine ⟨t, run, fun i hi => ⟨⟨nibble (s.hView[i / 8]'(by omega)) (i % 8), rfl, ?value⟩, ?mark⟩, data.h, data.v, data.w, message,
    fault, host, opened⟩
  case value => simp only [out]; rw [hexEncode_getElem _ i hi, hexCharAt_eq _ i hi, hexChar_toNat _ (nibble_lt _ _)]
  case mark => simp only [outKnown]; exact hexKnown_getElem _ i hi

end Sys2Proof.Machine
end

section
/-! The composites (R170, R171, R187), and what holds of every command: which registers it can write, and that no unspecified value
reaches a specified one. -/

namespace Sys2Proof.Machine

/-! ## BLOCK, DIGEST, HASH -/

/-- Settles O22: where its operands are specified, BLOCK is the pure function of the block's bytes. -/
theorem blockFoldsOneBlock : Obligations.BlockFoldsOneBlock := by
  intro blk s ready inside
  obtain ⟨t, run, data, fault, message, host, opened⟩ :=
    exec_effect (i := .block blk) ready.1 (.inl ready.2) (checkBlock_inside inside)
  refine ⟨t, run, fun written known => ?folded, data.out, message, fault, host, opened⟩
  case folded =>
    obtain ⟨w, v, h, kw, kv, kh⟩ := block_known (s := s.dropDone) written fun j hj => known ⟨j, hj⟩
    rw [data.w.1, data.v.1, data.h.1, data.h.2, data.v.2, data.w.2]
    exact ⟨w, v, h, fun j => ⟨kh j j.isLt, kv j j.isLt⟩, fun k => kw k k.isLt⟩

/-- R143, R171: what DIGEST's pseudocode leaves in W and V when the last block is block `n`. -/
theorem digestEffect_last {s : State} {n : Nat} (written : s.Written 0 s.len.toNat) (blocks : s.len.toNat = 64 * (n + 1)) :
    LastBlock s n s.digestEffect := by
  have count : s.len.toNat / 64 = n + 1 := by omega
  rw [State.digestEffect, count]
  exact digestUpTo_last s n (blocks ▸ written)

/-- R171: what DIGEST's pseudocode leaves in H. -/
theorem digestEffect_known {s : State} (written : s.Written 0 s.len.toNat) :
    s.digestEffect.h = hashBlocks s.msgByte (s.len.toNat / 64) ∧ ∀ (j : Nat) (hj : j < 8), s.digestEffect.hKnown[j] = true :=
  digestUpTo_known s _ fun a lo hi => written a lo (by omega)

/-- R171: with LEN = 0 DIGEST's pseudocode is INIT's. -/
theorem digestEffect_empty {s : State} (empty : s.len = 0#32) : s.digestEffect = s.initEffect := by
  rw [State.digestEffect, empty]; rfl

/-- W and V of a state with the same W and V are those of the last block, too. -/
theorem LastBlock.congr {s t u : State} {n : Nat} (last : LastBlock s n t) (v : SameV t u) (w : SameW t u) : LastBlock s n u := by
  unfold LastBlock
  rw [v.1, v.2, w.1, w.2]
  exact last

/-- Settles O23: DIGEST's pseudocode on written bytes, on its last block and on none. -/
theorem digestHashesThePaddedMessage : Obligations.DigestHashesThePaddedMessage := by
  intro s ready blocks fits
  obtain ⟨t, run, data, fault, message, host, opened⟩ :=
    exec_effect (i := .digest) ready.1 (.inl ready.2) (checkLength_ok blocks fits)
  have out : SameOut s.dropDone.digestEffect t := data.out
  rw [SameOut, State.digestEffect_out, State.digestEffect_outKnown] at out
  have fault' : SameFault s.dropDone.digestEffect t := fault
  rw [SameFault, State.digestEffect_err, State.digestEffect_errCode] at fault'
  refine ⟨t, run, fun written => ?hash, fun written n last => ?last, fun empty => ?empty, out, message, fault', host, opened⟩
  case hash =>
    obtain ⟨h, known⟩ := digestEffect_known (s := s.dropDone) written
    rw [data.h.1, data.h.2]
    exact ⟨h, fun j => known j j.isLt⟩
  case last => exact (digestEffect_last (s := s.dropDone) written last).congr data.v data.w
  case empty =>
    have init : effectOf .digest s.dropDone = s.dropDone.initEffect := digestEffect_empty empty
    rw [init] at data
    exact ⟨data.h.1, data.v, data.w⟩

/-- Settles O25: HEX's part reads the H that DIGEST's part has left and touches OUT alone. -/
theorem hashLeavesTheDigestInHex : Obligations.HashLeavesTheDigestInHex := by
  intro s ready blocks fits
  obtain ⟨t, run, data, fault, message, host, opened⟩ :=
    exec_effect (i := .hash) ready.1 (.inl ready.2) (checkLength_ok blocks fits)
  have fault' : SameFault s.dropDone.hashEffect t := fault
  rw [SameFault, State.hashEffect_err, State.hashEffect_errCode] at fault'
  refine ⟨t, run, fun written => ?hash, fun written n last => ?last, fun empty => ?empty, message, fault', host, opened⟩
  case hash =>
    obtain ⟨h, known⟩ := digestEffect_known (s := s.dropDone) written
    have chars : t.out = hexEncode t.h := by
      rw [data.out.1, data.h.1]
      exact congrArg hexEncode (State.hView_eq known)
    refine ⟨data.h.1.trans h, chars, fun j => ?_, fun i => ?_⟩
    · rw [data.h.2]; exact known j j.isLt
    · rw [data.out.2]; exact (hexKnown_getElem _ i i.isLt).trans (known _ _)
  case last => exact (digestEffect_last (s := s.dropDone) written last).congr data.v data.w
  case empty =>
    have init : effectOf .hash s.dropDone = s.dropDone.initEffect.hexEffect := congrArg State.hexEffect (digestEffect_empty empty)
    rw [init] at data
    exact ⟨data.h.1, data.v, data.w⟩

/-! ## What a command writes -/

/-- R130: a command leaves the data as it was, or as its pseudocode makes it. -/
theorem exec_data {s t : State} {i : Instr} (run : exec i s = .next t) : SameData s t ∨ SameData (effectOf i s.dropDone) t := by
  rw [exec_eq] at run
  obtain rfl := Host.Outcome.next.inj run
  obtain ⟨-, eq⟩ | ⟨-, -, -, eq⟩ | ⟨-, -, f, -, eq⟩ | ⟨-, -, -, eq⟩ :=
    State.issue_cases (s := s) (i := i) (check := checkOf i) (effect := effectOf i) <;> rw [eq]
  · exact .inl (.raise s _)
  · exact .inl (.refl s)
  · obtain ⟨h, v, w, out, msg, len⟩ := SameData.raise s.dropDone f
    exact .inl ⟨h, v, w, out, msg, len⟩
  · exact .inr (s.accept_sameData i _)

/-- Settles O31: every pseudocode leaves MSG and LEN. -/
theorem noCommandWritesTheMessage : Obligations.NoCommandWritesTheMessage := by
  intro i s t run
  obtain same | effect := exec_data run
  · exact ⟨same.msg, same.len⟩
  · obtain ⟨-, -, -, -, msg, len, -, -⟩ := effectOf_frame i s.dropDone
    exact ⟨effect.msg.trans msg, effect.len.trans len⟩

/-- R20: the pseudocodes that write H. -/
theorem effectOf_h (i : Instr) (s : State) :
    SameH s (effectOf i s) ∨ i = .init ∨ i = .addh ∨ (∃ b, i = .block b) ∨ i = .digest ∨ i = .hash := by
  cases i <;> simp [SameH, effectOf]

/-- R21: the pseudocodes that write V. -/
theorem effectOf_v (i : Instr) (s : State) :
    SameV s (effectOf i s) ∨ i = .rounds ∨ (∃ b, i = .block b) ∨ i = .digest ∨ i = .hash := by
  cases i <;> simp [SameV, effectOf]

/-- R22: the pseudocodes that write W. -/
theorem effectOf_w (i : Instr) (s : State) :
    SameW s (effectOf i s) ∨ (∃ b, i = .ldblk b) ∨ i = .expand ∨ (∃ b, i = .block b) ∨ i = .digest ∨ i = .hash := by
  cases i <;> simp [SameW, effectOf]

/-- Settles O32: a dropped command writes no register, an accepted one those of its pseudocode. -/
theorem eachRegisterHasItsWriters : Obligations.EachRegisterHasItsWriters := by
  intro i s t run
  obtain same | effect := exec_data run
  · exact ⟨.inl same.h, .inl same.v, .inl same.w, .inl same.out⟩
  · refine ⟨(effectOf_h i s.dropDone).imp_left fun h => ?_, (effectOf_v i s.dropDone).imp_left fun v => ?_,
      (effectOf_w i s.dropDone).imp_left fun w => ?_, (effectOf_out i s.dropDone).imp (fun out => ?_) And.left⟩
    · exact ⟨effect.h.1.trans h.1, effect.h.2.trans h.2⟩
    · exact ⟨effect.v.1.trans v.1, effect.v.2.trans v.2⟩
    · exact ⟨effect.w.1.trans w.1, effect.w.2.trans w.2⟩
    · exact ⟨effect.out.1.trans out.1, effect.out.2.trans out.2⟩

end Sys2Proof.Machine
end

section
/-! Composites and primitives (R170, R187). On operands that are all specified a pseudocode sees the data alone, so the same data gives
the same data, whatever the draws; and a completed command leaves its pseudocode's data on a ready machine. -/

namespace Sys2Proof.Machine

/-! ## The same data gives the same data -/

section
variable {s t : State} (same : SameData s t)
include same

/-- DONE is not data. -/
theorem SameData.dropDone : SameData s t.dropDone := ⟨same.h, same.v, same.w, same.out, same.msg, same.len⟩

/-- BUSY and DONE are not data. -/
theorem SameData.complete : SameData s t.complete := ⟨same.h, same.v, same.w, same.out, same.msg, same.len⟩

theorem SameData.symm : SameData t s :=
  ⟨⟨same.h.1.symm, same.h.2.symm⟩, ⟨same.v.1.symm, same.v.2.symm⟩, ⟨same.w.1.symm, same.w.2.symm⟩,
    ⟨same.out.1.symm, same.out.2.symm⟩, same.msg.symm, same.len.symm⟩

/-- A specified H reads the same. -/
theorem SameData.hView (known : ∀ (j : Nat) (hj : j < 8), s.hKnown[j] = true) : t.hView = s.hView := by
  rw [State.hView_eq known, State.hView_eq (s := t) (by rw [same.h.2]; exact known), same.h.1]

/-- A specified V reads the same. -/
theorem SameData.vView (known : ∀ (j : Nat) (hj : j < 8), s.vKnown[j] = true) : t.vView = s.vView := by
  rw [State.vView_eq known, State.vView_eq (s := t) (by rw [same.v.2]; exact known), same.v.1]

/-- A specified word of W reads the same. -/
theorem SameData.wView_getElem (k : Nat) (hk : k < 64) (known : s.wKnown[k] = true) : t.wView[k] = s.wView[k] := by
  rw [State.wView_getElem k hk known, State.wView_getElem k hk (by simpa only [same.w.2] using known)]
  simp only [same.w.1]

/-- A specified W reads the same. -/
theorem SameData.wView (known : ∀ (k : Nat) (hk : k < 64), s.wKnown[k] = true) : t.wView = s.wView :=
  Vector.ext fun k hk => same.wView_getElem k hk (known k hk)

/-- R142: EXPAND of a specified block. -/
theorem SameData.expandEffect (known : ∀ (k : Nat) (hk : k < 16), s.wKnown[k] = true) : SameData s.expandEffect t.expandEffect := by
  have words : t.expandedWords = s.expandedWords := by
    rw [expandedWords_eq known, expandedWords_eq (by simpa only [same.w.2] using known)]
    exact expandWords_congr fun k hk => same.wView_getElem k (by omega) (known k hk)
  exact ⟨same.h, same.v, ⟨words, congrArg expandKnown same.w.2⟩, same.out, same.msg, same.len⟩

/-- R157: ROUNDS of a specified H and W. -/
theorem SameData.roundsEffect (h : ∀ (j : Nat) (hj : j < 8), s.hKnown[j] = true) (w : ∀ (k : Nat) (hk : k < 64), s.wKnown[k] = true) :
    SameData s.roundsEffect t.roundsEffect :=
  ⟨same.h, ⟨congrArg₂ rounds64 (same.hView h) (same.wView w), congrArg₂ rounds64Known same.h.2 same.w.2⟩, same.w, same.out,
    same.msg, same.len⟩

/-- R158: ADDH of a specified H and V. -/
theorem SameData.addhEffect (h : ∀ (j : Nat) (hj : j < 8), s.hKnown[j] = true) (v : ∀ (j : Nat) (hj : j < 8), s.vKnown[j] = true) :
    SameData s.addhEffect t.addhEffect :=
  ⟨⟨congrArg₂ addWords (same.hView h) (same.vView v), congrArg₂ addKnown same.h.2 same.v.2⟩, same.v, same.w, same.out, same.msg,
    same.len⟩

/-- R186: HEX of a specified H. -/
theorem SameData.hexEffect (h : ∀ (j : Nat) (hj : j < 8), s.hKnown[j] = true) : SameData s.hexEffect t.hexEffect :=
  ⟨same.h, same.v, same.w, ⟨congrArg hexEncode (same.hView h), congrArg hexKnown same.h.2⟩, same.msg, same.len⟩

end

/-! ## Composites -/

/-- R170: after its load, its expansion and its rounds, BLOCK on specified operands has H, W and V specified. -/
theorem block_vKnown {s : State} {blk : Nat} (written : s.Written (64 * blk) 64)
    (known : ∀ (j : Nat) (hj : j < 8), s.hKnown[j] = true) (j : Nat) (hj : j < 8) :
    (s.ldblkEffect blk).expandEffect.roundsEffect.vKnown[j] = true :=
  rounds64Known_all _ _ known (fun k hk => block_wKnown written k hk) j hj

/-- Settles O34: each primitive, completed, has the data of BLOCK's pseudocode up to there, all its operands being specified. -/
theorem blockEqualsItsFourPrimitives : Obligations.BlockEqualsItsFourPrimitives := by
  intro blk s ready inside written known'
  have known : ∀ (j : Nat) (hj : j < 8), s.hKnown[j] = true := fun j hj => known' ⟨j, hj⟩
  have check : checkBlock blk s = none := checkBlock_inside inside
  obtain ⟨t1, run1, data1, fault1, -⟩ := exec_effect (i := .ldblk blk) ready.1 (.inl ready.2) check
  have err1 : t1.complete.err = false := fault1.1.trans ready.2
  obtain ⟨t2, run2, data2, fault2, -⟩ := exec_effect (s := t1.complete) (i := .expand) rfl (.inl err1) rfl
  have err2 : t2.complete.err = false := fault2.1.trans err1
  obtain ⟨t3, run3, data3, fault3, -⟩ := exec_effect (s := t2.complete) (i := .rounds) rfl (.inl err2) rfl
  have err3 : t3.complete.err = false := fault3.1.trans err2
  obtain ⟨t4, run4, data4, fault4, -⟩ := exec_effect (s := t3.complete) (i := .addh) rfl (.inl err3) rfl
  obtain ⟨u, run, data, fault, -⟩ := exec_effect (i := .block blk) ready.1 (.inl ready.2) check
  have load : SameData (s.dropDone.ldblkEffect blk) t1.complete.dropDone := data1.complete.dropDone
  have expand : SameData (s.dropDone.ldblkEffect blk).expandEffect t2.complete.dropDone :=
    ((load.expandEffect fun k hk => loadedKnown_of_written (s := s.dropDone) written k hk).trans data2).complete.dropDone
  have rounds : SameData (s.dropDone.ldblkEffect blk).expandEffect.roundsEffect t3.complete.dropDone :=
    ((expand.roundsEffect known fun k hk => block_wKnown (s := s.dropDone) written k hk).trans data3).complete.dropDone
  have addh : SameData (s.dropDone.blockEffect blk) t4 :=
    (rounds.addhEffect known fun j hj => block_vKnown (s := s.dropDone) written known j hj).trans data4
  have same : SameData t4 u := addh.symm.trans data
  have sameFault : SameFault t4 u :=
    ⟨(fault.1.trans ready.2).trans (fault4.1.trans err3).symm,
      fault.2.trans (fault4.2.trans (fault3.2.trans (fault2.2.trans fault1.2))).symm⟩
  exact ⟨t1, t2, t3, t4, u, run1, run2, run3, run4, run, same.h, same.v, same.w, same.out,
    ⟨same.len, fun a => by rw [same.msg]⟩, sameFault⟩

/-- Settles O35: DIGEST, completed, has the data HASH's pseudocode has before its HEX, with H specified. -/
theorem hashEqualsDigestThenHex : Obligations.HashEqualsDigestThenHex := by
  intro s ready blocks fits written
  have check : checkLength s = none := checkLength_ok blocks fits
  obtain ⟨t1, run1, data1, fault1, -⟩ := exec_effect (i := .digest) ready.1 (.inl ready.2) check
  have fault1' : SameFault s.dropDone.digestEffect t1 := fault1
  rw [SameFault, State.digestEffect_err, State.digestEffect_errCode] at fault1'
  have err1 : t1.complete.err = false := fault1'.1.trans ready.2
  obtain ⟨t2, run2, data2, fault2, -⟩ := exec_effect (s := t1.complete) (i := .hex) rfl (.inl err1) rfl
  obtain ⟨u, run, data, fault, -⟩ := exec_effect (i := .hash) ready.1 (.inl ready.2) check
  have digest : SameData s.dropDone.digestEffect t1.complete.dropDone := data1.complete.dropDone
  obtain ⟨-, known⟩ := digestEffect_known (s := s.dropDone) written
  have hex : SameData s.dropDone.hashEffect t2 := (digest.hexEffect known).trans data2
  have same : SameData t2 u := hex.symm.trans data
  have sameFault : SameFault t2 u := ⟨fault.1.trans (fault2.1.trans fault1.1).symm, fault.2.trans (fault2.2.trans fault1.2).symm⟩
  exact ⟨t1, t2, u, run1, run2, run, same.h, same.v, same.w, same.out, ⟨same.len, fun a => by rw [same.msg]⟩, sameFault⟩

end Sys2Proof.Machine
end

section
/-! Noninterference (R33, R38, U1): every operation of the protocol and every pseudocode takes agreeing states to agreeing states. -/

namespace Sys2Proof.Machine

/-- R130 case 4: the checks look at LEN alone. -/
theorem checkOf_congr {s t : State} (len : t.len = s.len) (i : Instr) : checkOf i t = checkOf i s := by
  cases i with
  | ldblk blk | block blk => simp only [checkOf, checkBlock_eq, len]
  | digest | hash => simp only [checkOf, checkLength, len]
  | init | expand | rounds | addh | hex | clrerr => rfl

/-- R185: a character of HexEncode depends on its word alone. -/
theorem hexEncode_getElem_congr {g h : Vector Word 8} (i : Nat) (hi : i < 64) (word : g[i / 8]'(by omega) = h[i / 8]'(by omega)) :
    (hexEncode g)[i] = (hexEncode h)[i] := by
  rw [hexEncode_getElem g i hi, hexEncode_getElem h i hi, hexCharAt_eq g i hi, hexCharAt_eq h i hi, word]

section
variable {s t : State} (a : Agree s t)
include a

/-! ## The pseudocodes -/

theorem Agree.initEffect : Agree s.initEffect t.initEffect :=
  { a with hKnown := rfl, h := fun _ _ _ => rfl }

theorem Agree.clearFault : Agree s.clearFault t.clearFault :=
  { a with err := rfl, errCode := rfl }

/-- The marks of a word of MSG are the same. -/
theorem Agree.msgWordKnown (x : Nat) : t.msgWordKnown x = s.msgWordKnown x := by
  simp only [State.msgWordKnown, State.msgKnown, a.msg]

/-- A specified word of MSG is the same. -/
theorem Agree.msgWord {x : Nat} (known : s.msgWordKnown x = true) : s.msgWord x = t.msgWord x := by
  rw [State.msgWordKnown_iff] at known
  have byte : ∀ y, x ≤ y → y < x + 4 → s.msgByte y = t.msgByte y := fun y lo hi =>
    (State.msgByte_congr (congrArg (Mem.find · y) a.msg) (known y lo hi)).symm
  rw [State.msgWord, State.msgWord, byte x (by omega) (by omega), byte (x + 1) (by omega) (by omega), byte (x + 2) (by omega) (by omega),
    byte (x + 3) (by omega) (by omega)]

theorem Agree.ldblkEffect (blk : Nat) : Agree (s.ldblkEffect blk) (t.ldblkEffect blk) := by
  have marks : t.loadedKnown blk = s.loadedKnown blk := Vector.ext fun k hk => by
    by_cases low : k < 16
    · rw [State.loadedKnown_low blk k low, State.loadedKnown_low blk k low, a.msgWordKnown]
    · rw [State.loadedKnown_high blk k (by omega) hk, State.loadedKnown_high blk k (by omega) hk, a.wKnown]
  have words : AgreeOn (s.loadedKnown blk) (s.loadedWords blk) (t.loadedWords blk) := fun k hk known => by
    by_cases low : k < 16
    · rw [State.loadedKnown_low blk k low] at known
      rw [State.loadedWords_low blk k low, State.loadedWords_low blk k low, a.msgWord known]
    · rw [State.loadedKnown_high blk k (by omega) hk] at known
      rw [State.loadedWords_high blk k (by omega) hk, State.loadedWords_high blk k (by omega) hk, a.w k hk known]
  exact { a with wKnown := marks, w := words }

theorem Agree.expandEffect : Agree s.expandEffect t.expandEffect := by
  have words : AgreeOn (expandKnown s.wKnown) s.expandedWords t.expandedWords := fun k hk known => by
    by_cases low : k < 16
    · rw [expandKnown_low _ k low] at known
      rw [State.expandedWords_low k low, State.expandedWords_low k low, a.w k hk known]
    · rw [State.expandedWords_high k (by omega) hk, State.expandedWords_high k (by omega) hk]
      exact agree_expandWords (agree_wView a) k hk known
  exact { a with wKnown := congrArg expandKnown a.wKnown, w := words }

theorem Agree.roundsEffect : Agree s.roundsEffect t.roundsEffect :=
  { a with vKnown := congrArg₂ rounds64Known a.hKnown a.wKnown, v := agree_rounds64 (agree_hView a) (agree_wView a) }

theorem Agree.addhEffect : Agree s.addhEffect t.addhEffect := by
  have words : AgreeOn (addKnown s.hKnown s.vKnown) (addWords s.hView s.vView) (addWords t.hView t.vView) := fun j hj known => by
    rw [addKnown_getElem _ _ j hj, Bool.and_eq_true] at known
    rw [addWords_getElem _ _ j hj, addWords_getElem _ _ j hj, agree_hView a j hj known.1, agree_vView a j hj known.2]
  exact { a with hKnown := congrArg₂ addKnown a.hKnown a.vKnown, h := words }

theorem Agree.hexEffect : Agree s.hexEffect t.hexEffect := by
  have chars : AgreeOn (hexKnown s.hKnown) (hexEncode s.hView) (hexEncode t.hView) := fun i hi known => by
    rw [hexKnown_getElem _ i hi] at known
    exact hexEncode_getElem_congr i hi (agree_hView a (i / 8) (by omega) known)
  exact { a with outKnown := congrArg hexKnown a.hKnown, out := chars }

theorem Agree.blockEffect (blk : Nat) : Agree (s.blockEffect blk) (t.blockEffect blk) :=
  (a.ldblkEffect blk).expandEffect.roundsEffect.addhEffect

theorem Agree.digestUpTo (n : Nat) : Agree (s.digestUpTo n) (t.digestUpTo n) := by
  induction n with
  | zero => exact a.initEffect
  | succ n ih => exact ih.blockEffect n

theorem Agree.digestEffect : Agree s.digestEffect t.digestEffect := by
  rw [State.digestEffect, State.digestEffect, a.len]
  exact a.digestUpTo _

theorem Agree.effectOf (i : Instr) : Agree (effectOf i s) (effectOf i t) := by
  cases i with
  | init => exact a.initEffect
  | ldblk blk => exact a.ldblkEffect blk
  | expand => exact a.expandEffect
  | rounds => exact a.roundsEffect
  | addh => exact a.addhEffect
  | block blk => exact a.blockEffect blk
  | digest => exact a.digestEffect
  | hex => exact a.hexEffect
  | hash => exact a.digestEffect.hexEffect
  | clrerr => exact a.clearFault

/-! ## The protocol -/

theorem Agree.dropDone : Agree s.dropDone t.dropDone := { a with done := rfl }

theorem Agree.raise (f : Cause) : Agree (s.raise f) (t.raise f) := by
  unfold State.raise
  rw [a.err]
  split
  · exact a
  · exact { a with err := rfl, errCode := rfl }

/-- R131: the same BUSY_STEPS give the same window. -/
theorem Agree.openWindow (i : Instr) (n : Nat) : Agree (s.openWindow i n) (t.openWindow i n) := by
  cases n with
  | zero => exact { a with done := rfl, engine := rfl, windows := congrArg List.tail a.windows }
  | succ n => exact { a with engine := rfl, windows := congrArg List.tail a.windows }

/-- R130: agreeing states are in the same case. -/
theorem Agree.issue {i : Instr} (window : s.nextWindow i = t.nextWindow i) :
    Agree (s.issue i (checkOf i) (Machine.effectOf i)) (t.issue i (checkOf i) (Machine.effectOf i)) := by
  have busy' : t.busy = s.busy := State.busy_congr a.engine
  have check' : checkOf i t = checkOf i s := checkOf_congr a.len i
  obtain ⟨busy, eq⟩ | ⟨idle, err, other, eq⟩ | ⟨idle, who, f, check, eq⟩ | ⟨idle, who, check, eq⟩ :=
    State.issue_cases (s := s) (i := i) (check := checkOf i) (effect := Machine.effectOf i) <;> rw [eq]
  · rw [State.issue_busy (busy'.trans busy)]; exact a.raise _
  · rw [State.issue_faulted (busy'.trans idle) (a.err.trans err) other]; exact a
  · rw [State.issue_checked (busy'.trans idle) (a.err ▸ who), State.checked_some (check'.trans check)]; exact a.dropDone.raise f
  · rw [State.issue_checked (busy'.trans idle) (a.err ▸ who), State.checked_none (check'.trans check), State.accept_eq, State.accept_eq,
      window]
    exact (a.dropDone.effectOf i).openWindow i _

end

/-- Settles O33: the two commands are issued on agreeing states. -/
theorem unspecifiedNeverReachesSpecified : Obligations.UnspecifiedNeverReachesSpecified := by
  intro i s t s' t' a window runS runT
  rw [exec_eq] at runS runT
  obtain rfl := Host.Outcome.next.inj runS
  obtain rfl := Host.Outcome.next.inj runT
  exact a.issue window

end Sys2Proof.Machine
end

section
/-! Shift, rotation and schedule (R112, R113, R142). -/

namespace Sys2Proof.Machine

/-- R112: a shift is a division. -/
theorem shr_toNat (x : Word) (n : Nat) : (shr x n).toNat = x.toNat / 2 ^ n := by
  rw [shr, BitVec.toNat_ushiftRight, Nat.shiftRight_eq_div_pow]

/-- R113: `rotr` is the library's rotation. -/
theorem rotr_eq_rotateRight (x : Word) {n : Nat} (hn : n < 32) : rotr x n = x.rotateRight n := by
  rw [BitVec.rotateRight_def, Nat.mod_eq_of_lt hn, rotr]

/-- R113: bit `i` of a rotation. -/
theorem rotr_getLsbD (x : Word) {n : Nat} (hn : n < 32) (i : Nat) (hi : i < 32) : (rotr x n).getLsbD i = x.getLsbD ((i + n) % 32) := by
  rw [rotr_eq_rotateRight x hn, BitVec.getLsbD_rotateRight, Nat.mod_eq_of_lt hn, Bool.cond_decide]
  split
  · rw [show (i + n) % 32 = n + i by omega]
  · rw [show (i + n) % 32 = i - (32 - n) by omega, decide_eq_true hi, Bool.true_and]

/-- R113: the bits shifted right and those carried around do not overlap, so a rotation is a sum modulo 2^32. -/
theorem rotr_toNat (x : Word) {n : Nat} (hn : n < 32) :
    (rotr x n).toNat = (x.toNat / 2 ^ n + x.toNat * 2 ^ (32 - n)) % 2 ^ 32 := by
  have split : 2 ^ 32 = 2 ^ n * 2 ^ (32 - n) := by rw [← Nat.pow_add, Nat.add_sub_cancel' hn.le]
  have high : x.toNat / 2 ^ n < 2 ^ (32 - n) := Nat.div_lt_of_lt_mul (split ▸ x.isLt)
  have low : x.toNat % 2 ^ n + 1 ≤ 2 ^ n := Nat.mod_lt _ (Nat.two_pow_pos n)
  have around : (x <<< (32 - n)).toNat = (x.toNat % 2 ^ n) <<< (32 - n) := by
    rw [BitVec.toNat_shiftLeft, Nat.shiftLeft_eq, Nat.shiftLeft_eq, split, Nat.mul_mod_mul_right]
  have fits : x.toNat % 2 ^ n * 2 ^ (32 - n) + x.toNat / 2 ^ n < 2 ^ 32 :=
    calc x.toNat % 2 ^ n * 2 ^ (32 - n) + x.toNat / 2 ^ n
      _ < (x.toNat % 2 ^ n + 1) * 2 ^ (32 - n) := by rw [Nat.add_one_mul]; omega
      _ ≤ 2 ^ 32 := split ▸ Nat.mul_le_mul_right _ low
  have value : x.toNat / 2 ^ n + x.toNat * 2 ^ (32 - n) =
      x.toNat % 2 ^ n * 2 ^ (32 - n) + x.toNat / 2 ^ n + 2 ^ 32 * (x.toNat / 2 ^ n) :=
    calc x.toNat / 2 ^ n + x.toNat * 2 ^ (32 - n)
      _ = x.toNat / 2 ^ n + (x.toNat % 2 ^ n + 2 ^ n * (x.toNat / 2 ^ n)) * 2 ^ (32 - n) := by rw [Nat.mod_add_div]
      _ = _ := by rw [split]; ring
  rw [value, Nat.add_mul_mod_self_left, Nat.mod_eq_of_lt fits, rotr, BitVec.toNat_or, around, BitVec.toNat_ushiftRight,
    Nat.shiftRight_eq_div_pow, Nat.or_comm, ← Nat.shiftLeft_add_eq_or_of_lt high, Nat.shiftLeft_eq]

/-- R113: a rotation of equal bits changes nothing. -/
theorem rotr_const {x : Word} {b : Bool} (h : ∀ i, i < 32 → x.getLsbD i = b) {n : Nat} (hn : n < 32) : rotr x n = x :=
  BitVec.eq_of_getLsbD_eq fun i hi => by rw [rotr_getLsbD x hn i hi, h i hi, h _ (Nat.mod_lt _ (by decide))]

/-- Settles O56: the general clauses are the lemmas above; the worked values are closed and computed. -/
theorem shiftAndRotateByBits : Obligations.ShiftAndRotateByBits := by
  refine ⟨shr_toNat, fun x n _ hn => ⟨rotr_toNat x hn, rotr_getLsbD x hn, ?ones, ?zero⟩, by decide⟩
  case ones => exact rotr_const (b := true) (by decide) hn
  case zero => exact rotr_const (b := false) (by decide) hn

/-- R142: a schedule that begins with zeros is zero, since both sigma functions are zero at zero. -/
theorem expandWords_zero {x : Vector Word 64} (zero : ∀ (k : Nat) (hk : k < 16), x[k] = 0#32) (k : Nat) (hk : k < 64) :
    (expandWords x)[k] = 0#32 := by
  induction k using Nat.strong_induction_on with
  | _ k ih =>
    by_cases low : k < 16
    · rw [expandWords_low x k low, zero k low]
    · rw [expandWords_high x k (by omega) hk, ih (k - 16) (by omega) (by omega), ih (k - 15) (by omega) (by omega),
        ih (k - 7) (by omega) (by omega), ih (k - 2) (by omega) (by omega)]
      decide

/-- Settles O58: a schedule is determined by its first 16 words, which expansion keeps. -/
theorem scheduleIsAFunctionOfSixteenWords : Obligations.ScheduleIsAFunctionOfSixteenWords :=
  ⟨fun _ _ same => expandWords_congr same, fun x => expandWords_congr fun k hk => expandWords_low x k hk,
    fun _ zero k => expandWords_zero zero k k.isLt⟩

end Sys2Proof.Machine
end

section
/-! The host's procedures (R201 to R210): the padded length, loading a padded message, and the run of `digest`. -/

namespace Sys2Proof.Machine

/-! ## The padded length and the input -/

/-- Settles O50: the invariants of `ceil((n + 9) / 64) * 64`. -/
theorem padMeetsItsInvariants : Obligations.PadMeetsItsInvariants := by
  intro m
  rw [length_pad, paddedLength]
  omega

/-- R6: a length that fits into MSG fits into LEN. -/
theorem toNat_ofNat_of_le_msgBytes {n : Nat} (fits : n ≤ Config.msgBytes) : (BitVec.ofNat 32 n).toNat = n := by
  have := Config.msgBytes_le
  rw [BitVec.toNat_ofNat, Nat.mod_eq_of_lt (by omega)]

/-- Settles O51: a padded length passes the length check. -/
theorem hashOfAPaddedMessageNeverFaults : Obligations.HashOfAPaddedMessageNeverFaults := by
  intro m s ready fits len
  have value : s.len.toNat = (pad m).length := len ▸ toNat_ofNat_of_le_msgBytes fits
  obtain ⟨blocks, -⟩ := padMeetsItsInvariants m
  obtain ⟨t, run, -, -, -, -, ⟨err, -⟩, -, opened⟩ := hashLeavesTheDigestInHex s ready (value ▸ blocks) (value ▸ fits)
  exact ⟨t, run, err.trans ready.2, opened⟩

/-- Settles O52: the plan looks at the normalised input alone. -/
theorem textAndItsBytesAreTheSameInput : Obligations.TextAndItsBytesAreTheSameInput := by
  refine ⟨fun points m encoded => ?text, rfl, rfl⟩
  case text =>
    have same : normalise (.text points) = normalise (.bytes m) := by simp [normalise, encoded]
    rw [digestPlan, digestPlan, same]

/-! ## Load -/

/-- The memory after the bytes `bs` are stored from address `a` on, in ascending order (R206). -/
def Mem.putBytes (m : Mem) (a : Nat) : List Byte → Mem
  | [] => m
  | b :: bs => Mem.putBytes (Mem.put m a b) (a + 1) bs

/-- R259: the other bytes stay. -/
theorem Mem.find_putBytes_outside {m : Mem} {a x : Nat} {bs : List Byte} (h : x < a ∨ a + bs.length ≤ x) :
    Mem.find (m.putBytes a bs) x = Mem.find m x := by
  induction bs generalizing m a with
  | nil => rfl
  | cons b bs ih =>
    rw [List.length_cons] at h
    rw [Mem.putBytes, ih (by omega), Mem.find_put_other m b (by omega)]

/-- R206: each byte is at its address. -/
theorem Mem.find_putBytes_inside {m : Mem} {a i : Nat} {bs : List Byte} (h : i < bs.length) :
    Mem.find (m.putBytes a bs) (a + i) = bs[i]? := by
  induction bs generalizing m a i with
  | nil => exact absurd h (Nat.not_lt_zero i)
  | cons b bs ih =>
    cases i with
    | zero => rw [Mem.putBytes, Mem.find_putBytes_outside (by omega), Nat.add_zero, Mem.find_put_same]; rfl
    | succ i => rw [Mem.putBytes, show a + (i + 1) = a + 1 + i by omega, ih (Nat.lt_of_succ_lt_succ h)]; rfl

/-- R61, R206: the MSG writes of a byte sequence store it. -/
theorem run_writeBytes {bs : List Byte} {a : Nat} {s : State} {rest : List HostOp} (idle : s.busy = false)
    (inside : a + bs.length ≤ Config.msgBytes) (script : s.host = writeBytes a bs ++ rest) :
    core.run bs.length s = .next { s.withHost rest with msg := s.msg.putBytes a bs } := by
  induction bs generalizing a s with
  | nil =>
    obtain rfl : s.host = rest := script
    exact run_zero s
  | cons b bs ih =>
    rw [List.length_cons] at inside
    have stored := State.writeMsg_idle (s := s.withHost (writeBytes (a + 1) bs ++ rest)) (a := a) b idle (by omega)
    have write := step_msgWrite (rest := writeBytes (a + 1) bs ++ rest) script
    rw [State.afterAccess_idle idle, stored] at write
    exact (run_succ bs.length write).trans (ih idle (by omega) rfl)

/-- R206: the run of Load. -/
theorem run_load {p : List Byte} {s : State} {rest : List HostOp} (idle : s.busy = false) (fits : p.length ≤ Config.msgBytes)
    (script : s.host = load p ++ rest) :
    core.run (p.length + 1) s =
      .next { s.withHost rest with len := BitVec.ofNat 32 p.length, msg := s.msg.putBytes 0 p } := by
  have bytes := run_writeBytes (a := 0) (rest := .regWrite 2 (BitVec.ofNat 32 p.length) :: rest) idle (by omega)
    (script.trans (List.append_assoc ..))
  obtain ⟨t, run, rfl, -⟩ := (registerWritesStoreOnlyLen { s.withHost _ with msg := s.msg.putBytes 0 p } rest _).1 rfl idle
  exact (run_add p.length 1 bytes).trans (run_succ 0 run)

/-- Settles O53: the run of Load, read byte by byte. -/
theorem loadPutsThePaddedMessage : Obligations.LoadPutsThePaddedMessage := by
  intro p s rest idle fits script
  refine ⟨_, run_load idle fits script, rfl, fun a ha => ?inside, fun a ha => ?outside, rfl⟩
  case inside => simpa using Mem.find_putBytes_inside (m := s.msg) (a := 0) ha
  case outside => exact Mem.find_putBytes_outside (.inr (by omega))

/-! ## WAIT -/

/-- A run of some number of steps to an idle machine with `rest` left to do, on which the data and the fault are the same. -/
def ReachesIdle (s : State) (rest : List HostOp) : Prop :=
  ∃ k t, core.run k s = .next t ∧ t.busy = false ∧ t.host = rest ∧ SameData s t ∧ SameFault s t

/-- A step that leaves the data and the fault can stand in front. -/
theorem ReachesIdle.of_step {s t : State} {rest : List HostOp} (run : step s = .next t) (data : SameData s t) (fault : SameFault s t)
    (reaches : ReachesIdle t rest) : ReachesIdle s rest := by
  obtain ⟨k, u, run', idle, host, data', fault'⟩ := reaches
  exact ⟨k + 1, u, (run_succ k run).trans run', idle, host, data.trans data', fault'.1.trans fault.1, fault'.2.trans fault.2⟩

/-- R96: with BUSY = 0, WAIT is done after one STATUS read. -/
theorem reachesIdle_wait_idle {s : State} {rest : List HostOp} (script : s.host = .wait :: rest) (idle : s.busy = false) :
    ReachesIdle s rest :=
  ⟨1, _, run_succ 0 ((waitPollsUntilIdle s rest script).1 idle), idle, rfl,
    ⟨⟨rfl, rfl⟩, ⟨rfl, rfl⟩, ⟨rfl, rfl⟩, ⟨rfl, rfl⟩, rfl, rfl⟩, rfl, rfl⟩

/-- R96, R131: a WAIT ends on an idle machine with the same data and the same fault, however long the window is. -/
theorem reachesIdle_wait {s : State} {rest : List HostOp} (script : s.host = .wait :: rest) : ReachesIdle s rest := by
  cases engine : s.engine with
  | idle => exact reachesIdle_wait_idle script (State.busy_eq_false.2 engine)
  | executing i n =>
    induction n using Nat.strong_induction_on generalizing s with
    | _ n ih =>
      have poll := (waitPollsUntilIdle s rest script).2 (State.busy_eq_true.2 ⟨i, n, engine⟩)
      have data := SameData.tick (s.withReply (.reg 1 s.statusWord))
      refine .of_step poll ⟨data.h, data.v, data.w, data.out, data.msg, data.len⟩ ⟨State.tick_err _, State.tick_errCode _⟩ ?_
      have script' := (State.tick_host (s.withReply (.reg 1 s.statusWord))).trans script
      have tick := State.tick_executing (s := s.withReply (.reg 1 s.statusWord)) engine
      by_cases last : n ≤ 1
      · rw [if_pos last] at tick
        exact reachesIdle_wait_idle script' (by rw [tick]; rfl)
      · rw [if_neg last] at tick
        exact ih (n - 1) (by omega) script' (by rw [tick])

/-! ## Reading the digest -/

/-- R26: word `j` of OUTW when OUT holds the characters `c`. -/
def charWord (c : Vector Byte 64) (j : Nat) : Word :=
  be32 (c.getD (4 * j) 0#8) (c.getD (4 * j + 1) 0#8) (c.getD (4 * j + 2) 0#8) (c.getD (4 * j + 3) 0#8)

/-- An idle machine shows the specified characters `c` in OUT. -/
def State.Shows (s : State) (c : Vector Byte 64) : Prop :=
  s.busy = false ∧ (∀ (i : Nat) (hi : i < 64), s.outKnown[i] = true) ∧ s.out = c

/-- R33: what reading a word of OUTW gives. -/
theorem State.Shows.readReg {s : State} {c : Vector Byte 64} (shows : s.Shows c) (j : Nat) (hj : j < 16) :
    s.readReg (outReg + j) = charWord c j := by
  obtain ⟨idle, known, rfl⟩ := shows
  have view : s.outView = s.out := Vector.ext fun i hi => State.outView_getElem i hi (known i hi)
  exact (State.readReg_out j hj).trans ((State.settled_idle idle _ _).trans (by rw [State.outWord, view, charWord]))

/-- The reads of the words `js` of OUTW. -/
def outwReads (js : List Nat) : List HostOp := js.map fun j => .regRead (outReg + j)

/-- The accesses of `digest` after HASH (R207). -/
def answerReads : List HostOp := .wait :: .regRead 1 :: outwReads (List.range 16)

/-- R207: the run of the reads of OUTW. -/
theorem run_readOutw {js : List Nat} {s : State} {c : Vector Byte 64} (shows : s.Shows c) (bound : ∀ j ∈ js, j < 16)
    (script : s.host = outwReads js) :
    ∃ t, core.run js.length s = .next t ∧ t.host = [] ∧
      t.replies = s.replies ++ js.map fun j => .reg (outReg + j) (charWord c j) := by
  induction js generalizing s with
  | nil => exact ⟨s, run_zero s, script, (List.append_nil _).symm⟩
  | cons j js ih =>
    have read := (readsHaveNoSideEffect s (outwReads js)).1 _ script
    rw [shows.1, shows.readReg j (bound j List.mem_cons_self)] at read
    obtain ⟨t, run, host, replies⟩ := ih (s := (s.withHost (outwReads js)).withReply (.reg (outReg + j) (charWord c j)))
      shows (fun j hj => bound j (List.mem_cons_of_mem _ hj)) rfl
    refine ⟨t, (run_succ js.length read).trans run, host, replies.trans ?_⟩
    exact List.append_assoc ..

/-- R26, R66: a word of OUTW gives its four characters back. -/
theorem wordChars_be32 (b0 b1 b2 b3 : Byte) : wordChars (be32 b0 b1 b2 b3) = [b0, b1, b2, b3] := by
  have h0 := b0.isLt; have h1 := b1.isLt; have h2 := b2.isLt; have h3 := b3.isLt
  have byte : ∀ {k : Nat} {b : Byte}, (be32 b0 b1 b2 b3).toNat / 2 ^ (24 - 8 * k) % 2 ^ 8 = b.toNat → byteOf (be32 b0 b1 b2 b3) k = b :=
    fun h => BitVec.eq_of_toNat_eq ((byteOf_toNat _ _).trans h)
  rw [be32_toNat] at byte
  rw [wordChars, byte (k := 0) (b := b0), byte (k := 1) (b := b1), byte (k := 2) (b := b2), byte (k := 3) (b := b3)]
  all_goals simp only [Nat.reduceMul, Nat.reduceSub, Nat.reducePow]; omega

/-- The words of register reads, in order. -/
theorem replyWords_map_reg (js : List Nat) (r : Nat → Nat) (v : Nat → Word) :
    replyWords (js.map fun j => .reg (r j) (v j)) = js.map v := by
  induction js with
  | nil => rfl
  | cons j js ih => exact congrArg (v j :: ·) ih

/-- A list in groups of four. -/
theorem flatMap_groups_of_four (f : Nat → Byte) (n : Nat) :
    (List.range n).flatMap (fun j => [f (4 * j), f (4 * j + 1), f (4 * j + 2), f (4 * j + 3)]) = (List.range (4 * n)).map f := by
  induction n with
  | zero => rfl
  | succ n ih => rw [List.range_succ, List.flatMap_append, ih, Nat.mul_succ]; simp [List.range_succ]

/-- R26, R66: the 16 words of OUTW give the 64 characters. -/
theorem flatMap_wordChars (c : Vector Byte 64) : ((List.range 16).map (charWord c)).flatMap wordChars = c.toList := by
  have chars : ∀ j, wordChars (charWord c j) = _ := fun j => wordChars_be32 ..
  rw [List.flatMap_map]
  simp only [chars]
  rw [flatMap_groups_of_four (fun i => c.getD i 0#8)]
  exact List.ext_getElem (by simp) fun i _ hi => by simp [getD_eq c (show i < 64 by simpa using hi)]

/-- R207: the answer the host reads from the last 17 replies when STATUS shows no fault. -/
theorem digestAnswer_eq (prior : List Reply) {status : Word} (noFault : status.getLsbD 2 = false) (c : Vector Byte 64) :
    digestAnswer (prior ++ .reg 1 status :: (List.range 16).map fun j => .reg (outReg + j) (charWord c j)) = some c.toList := by
  unfold digestAnswer
  rw [List.length_append, List.length_cons, List.length_map, List.length_range, Nat.add_sub_cancel, List.drop_left, replyWords,
    replyWords_map_reg]
  simp only [noFault, flatMap_wordChars]
  rfl

/-! ## The run of digest -/

/-- R207: once HASH has been accepted on a message whose hash is in OUT, the rest of the script reads it. -/
theorem run_digest_reads {s : State} {c : Vector Byte 64} (noFault : s.err = false)
    (known : ∀ (i : Nat) (hi : i < 64), s.outKnown[i] = true) (out : s.out = c)
    (script : s.host = answerReads) :
    ∃ k t, core.run k s = .next t ∧ t.host = [] ∧ digestAnswer t.replies = some c.toList := by
  obtain ⟨k, u, run, idle, host, data, fault⟩ := reachesIdle_wait script
  have status := (readsHaveNoSideEffect u (outwReads (List.range 16))).1 _ host
  rw [idle] at status
  have shows : u.Shows c := ⟨idle, by rw [data.out.2]; exact known, data.out.1.trans out⟩
  obtain ⟨t, reads, empty, replies⟩ := run_readOutw (js := List.range 16)
    (s := (u.withHost (outwReads (List.range 16))).withReply (.reg 1 (u.readReg 1))) shows
    (fun j hj => List.mem_range.1 hj) rfl
  have noFault' : (u.readReg 1).getLsbD 2 = false := (u.statusWord_getLsbD 2).trans (fault.1.trans noFault)
  refine ⟨k + (1 + 16), t, ?_, empty, ?_⟩
  · rw [run_add k _ run, run_add 1 16 (run_succ 0 status)]; exact reads
  · rw [replies]
    exact (congrArg digestAnswer (List.append_assoc ..)).trans (digestAnswer_eq u.replies noFault' c)

/-- R187, R207: HASH on a ready machine that holds the bytes `p`, whole blocks that fit. -/
theorem exec_hash_loaded {p : List Byte} {s : State} (ready : s.Ready) (blocks : p.length % 64 = 0) (fits : p.length ≤ Config.msgBytes)
    (len : s.len = BitVec.ofNat 32 p.length) (bytes : ∀ a, a < p.length → Mem.find s.msg a = p[a]?) :
    ∃ t, exec .hash s = .next t ∧ t.err = false ∧ (∀ i : Fin 64, t.outKnown[i] = true) ∧
      t.out = hexEncode (hashBlocks (fun a => p.getD a 0#8) (p.length / 64)) ∧ t.host = s.host := by
  have value : s.len.toNat = p.length := len ▸ toNat_ofNat_of_le_msgBytes fits
  have found : ∀ a, a < p.length → Mem.find s.msg a = some (p.getD a 0#8) := fun a ha => by
    rw [bytes a ha, List.getD_eq_getElem _ _ ha, List.getElem?_eq_getElem ha]
  have written : s.Written 0 s.len.toNat := fun a _ ha => by rw [found a (by omega)]; rfl
  obtain ⟨t, run, hash, -, -, -, ⟨err, -⟩, ⟨host, -⟩, -⟩ := hashLeavesTheDigestInHex s ready (value ▸ blocks) (value ▸ fits)
  obtain ⟨h, out, -, known⟩ := hash written
  refine ⟨t, run, err.trans ready.2, known, ?_, host⟩
  rw [out, h, value, hashBlocks_congr (p.length / 64) fun a ha => State.msgByte_of_find (found a (by omega))]

/-- Settles O54: Load writes the padded message, HASH leaves its hash in OUT, and the reads after WAIT give it to the host. -/
theorem digestProcedureReturnsTheDigest : Obligations.DigestProcedureReturnsTheDigest := by
  intro m s ready fits script
  obtain ⟨blocks, -⟩ := padMeetsItsInvariants m
  obtain ⟨s1, load, len, bytes, -, rest1⟩ := loadPutsThePaddedMessage (pad m) s _ ready.1 fits
    (script.trans (List.append_assoc ..))
  have ready1 : s1.Ready := by rw [rest1]; exact ready
  have script1 : s1.host = .regWrite 0 0x09000000#32 :: answerReads := by
    rw [rest1]; rfl
  obtain ⟨t, run, step⟩ := stepRunsDecodedCommand s1 _ _ .hash script1 (by decide)
  rw [ready1.1] at step
  obtain ⟨t', run', noFault, known, out, host⟩ := exec_hash_loaded (s := s1.withHost answerReads) ready1 blocks fits len bytes
  obtain rfl := Host.Outcome.next.inj (run.symm.trans run')
  obtain ⟨k, u, reads, empty, answer⟩ := run_digest_reads noFault (fun i hi => known ⟨i, hi⟩) out host
  exact ⟨(pad m).length + 1 + (k + 1), u, (run_add _ _ load).trans ((run_succ k step).trans reads), empty, answer⟩

end Sys2Proof.Machine
end
